-- ==== Sys2Proof/Word.lean ====
section
/-! DEFINITION. The word types whose width the source fixes (spec/00_scope.md R5, R9): every value is
an unsigned integer of a stated width, nothing is signed. A value whose width is a parameter of R5 is
a natural number that the width bounds (Config.lean; log entry 1). -/

namespace Sys2Proof

/-- One byte, bit 7 most significant (R9). -/
abbrev Byte := BitVec 8

/-- The opaque timestamp: TSW = 64 bits (R5: fixed by the source). -/
abbrev Stamp := BitVec 64

/-- The value of a field of a width: a number as far as the width carries it. -/
def atWidth (bits n : Nat) : Nat := n % 2 ^ bits

end Sys2Proof
end

