-- ==== Sys2Proof/Config.lean ====
section
/-! DEFINITION. The parameters of spec/00_scope.md R5. The widths that the spec leaves open are
arguments of the model: a `Widths` that State carries and nothing writes (log entry 1). FU_TYPE is a
field of State too (log entry 2), BASE_ALIGN an argument of ScanFast (log entry 17). The rest is
fixed by the source. -/

namespace Sys2Proof

/-- The open widths of R5. -/
structure Widths where
  /-- AW: every position, offset and length (D3). -/
  aw : Nat
  /-- TW: the unit_type and temporal_id_plus1 inputs of HENC and ISKEY (D5). -/
  tw : Nat
  /-- CTX_W: the opaque context (D23). -/
  ctxw : Nat
  /-- SINK_W: the sink's status answer (D15; log entry 24). -/
  sinkw : Nat
deriving DecidableEq, Repr

/-- The spec's defaults (R5). Only `State.reset` and tests use them. -/
def Widths.default : Widths := { aw := 32, tw := 8, ctxw := 64, sinkw := 1 }

/-- A position, offset or length on its AW wires. -/
def Widths.pos (w : Widths) (n : Nat) : Nat := atWidth w.aw n

/-- A type or temporal-id input on its TW wires. -/
def Widths.typ (w : Widths) (n : Nat) : Nat := atWidth w.tw n

/-- A context on its CTX_W wires. -/
def Widths.ctx (w : Widths) (n : Nat) : Nat := atWidth w.ctxw n

/-- An answer of the sink on its SINK_W wires. -/
def Widths.answer (w : Widths) (n : Nat) : Nat := atWidth w.sinkw n

/-- The greatest LEN, 2^AW - 1 (R6): offsets run from 0 to one less. -/
def Widths.maxLen (w : Widths) : Nat := 2 ^ w.aw - 1

/-- TSW of R5: fixed by the source. -/
def Config.tsw : Nat := 64

/-- WORD of R5: bytes per word of the word-parallel scan phase. -/
def Config.word : Nat := 4

/-- MIN_MAXSZ of R5 and R7: the smallest legal MAXSZ. -/
def Config.minMaxsz : Nat := 4

/-- KEY_LO of R5. -/
def Config.keyLo : Nat := 16

/-- KEY_HI of R5. -/
def Config.keyHi : Nat := 21

/-- The default of FU_TYPE (R8; from general knowledge in the spec's own words, G1). Only
`State.reset` uses it (log entry 2). -/
def Config.fuTypeDefault : BitVec 6 := 49

end Sys2Proof
end

