-- ==== Sys2Proof/Syntax.lean ====
section
/-! DEFINITION. The operations and formats of the block: one constructor of `Instr` per row of
spec/opcode_table.json; the command record of spec/30_encoding.md R54; the unit header of R59. -/

namespace Sys2Proof

/-- A command as the host puts it on the command port: "a record of named fields on the command
port, not a packed word" (R54). A format reads the fields it lists and ignores the others. A field whose
width is a parameter of R5 is a number; `Instr.wellFormed` says that it fits. -/
structure Command where
  op    : BitVec 3
  pos   : Nat
  len   : Nat
  maxsz : Nat
  ts    : Stamp
  ctx   : Nat
  hb0   : Byte
  hb1   : Byte
  fin   : BitVec 1
  tin   : Nat
  lin   : BitVec 6
  din   : Nat
deriving DecidableEq, Repr

/-- The command whose every field is 0: the fields a format does not list are left at 0 by the
encoder (R54 lets them be anything). -/
def Command.zero : Command :=
  { op := 0, pos := 0, len := 0, maxsz := 0, ts := 0, ctx := 0, hb0 := 0, hb1 := 0,
    fin := 0, tin := 0, lin := 0, din := 0 }

/-- A decoded unit header: the 4-tuple of R59 and nothing more (R98). -/
structure UnitHeader where
  f : BitVec 1
  t : BitVec 6
  l : BitVec 6
  d : BitVec 3
deriving DecidableEq, Repr

/-- The three bytes of a fragmentation header, byte 0 first in stream order (R63). -/
structure FuBytes where
  b0 : Byte
  b1 : Byte
  b2 : Byte
deriving DecidableEq, Repr

/-- One constructor per row of spec/opcode_table.json. -/
inductive Instr where
  /-- SCAN, op 0, format S (R77). -/
  | scan (pos len : Nat)
  /-- SCLEN, op 1, format S (R83). -/
  | sclen (pos len : Nat)
  /-- HDEC, op 2, format D (R92). -/
  | hdec (hb0 hb1 : Byte)
  /-- HENC, op 3, format E (R95). -/
  | henc (fin : BitVec 1) (tin : Nat) (lin : BitVec 6) (din : Nat)
  /-- ISKEY, op 4, format K (R102). -/
  | iskey (tin : Nat)
  /-- PKT, op 5, format P (R106). -/
  | pkt (len maxsz : Nat) (ts : Stamp) (ctx : Nat)
  /-- Reserved op 6 (R55). -/
  | reserved6
  /-- Reserved op 7 (R55). -/
  | reserved7
  /-- START3, the 3-byte start code (R56): a data format. -/
  | start3
  /-- START4, the 4-byte start code (R56): a data format. -/
  | start4
  /-- UNIT_HDR, the 2-byte unit header (R60): a data format. -/
  | unitHdr (f : BitVec 1) (t l : BitVec 6) (d : BitVec 3)
  /-- FU_HDR, the 3-byte fragmentation header (R63): a data format. -/
  | fuHdr (u : BitVec 6) (d : BitVec 3) (sb eb : BitVec 1) (o : BitVec 6)
deriving DecidableEq, Repr

/-- What stands for an instruction's words: a command record for the eight operation codes, bytes in
stream order for the four data formats (30_encoding.md, opening paragraph). -/
inductive Encoded where
  | command (c : Command)
  | stream (bytes : List Byte)
deriving DecidableEq, Repr

end Sys2Proof
end

