-- ==== Sys2Proof/WellFormed.lean ====
section
/-! DEFINITION. The checks on a term of `Instr`: an operand whose width is a parameter of R5 fits it,
so that it can be put on the command port (R16, R54), and FU_HDR, the only format in which not every
value of the fields occurs, has a pair of flags that occurs and is no start code. -/

namespace Sys2Proof

/-- A number fits a field of a width. -/
def fitsBits (bits n : Nat) : Bool := decide (n < 2 ^ bits)

/-- "The combination S = 1, E = 1 is never produced" (R64). -/
def fuFlagsLegal (sb eb : BitVec 1) : Bool := !(sb == 1 && eb == 1)

/-- The bytes of the header are not the three bytes `00 00 01` of START3, which the decoder reads as
a start code first (log entry 10). -/
def fuNotStart3 (u : BitVec 6) (d : BitVec 3) (sb eb : BitVec 1) (o : BitVec 6) : Bool :=
  !(u == 0 && d == 0 && sb == 0 && eb == 0 && o == 1)

/-- The check of one term, for a block of these widths. -/
def Instr.wellFormed (w : Widths) : Instr → Bool
  | .scan pos len => fitsBits w.aw pos && fitsBits w.aw len
  | .sclen pos len => fitsBits w.aw pos && fitsBits w.aw len
  | .hdec _ _ => true
  | .henc _ tin _ din => fitsBits w.tw tin && fitsBits w.tw din
  | .iskey tin => fitsBits w.tw tin
  | .pkt len maxsz _ ctx => fitsBits w.aw len && fitsBits w.aw maxsz && fitsBits w.ctxw ctx
  | .reserved6 => true
  | .reserved7 => true
  | .start3 => true
  | .start4 => true
  | .unitHdr _ _ _ _ => true
  | .fuHdr u d sb eb o => fuFlagsLegal sb eb && fuNotStart3 u d sb eb o

end Sys2Proof
end

