-- ==== Sys2Proof/Decode.lean ====
section
/-! DEFINITION. Decoding and encoding: the command record by its op (spec/30_encoding.md R53 to
R55), the byte layouts of the data formats (R56, R60, R63), the encoder written from the same
tables, and the reading of one word of spec/opcode_table.json. -/

namespace Sys2Proof

/-! ### Field assembly of the unit header and the fragmentation header -/

/-- Field assembly on decode (R61, in the arithmetic of R91): F = b0 >> 7, unit_type = (b0 >> 1) & 0x3F,
layer_id = (b0 & 1) << 5 | b1 >> 3, temporal_id_plus1 = b1 & 7, each at its field width. -/
def headerOfBytes (b0 b1 : Byte) : UnitHeader :=
  { f := (b0 >>> 7).setWidth 1
    t := (b0 >>> 1).setWidth 6
    l := ((b0 &&& 1#8) <<< 5 ||| b1 >>> 3).setWidth 6
    d := b1.setWidth 3 }

/-- Byte 0 of the unit header, `fttttttl` (R60): F << 7 | type << 1 | layer[5] (R62). -/
def headerByte0 (h : UnitHeader) : Byte :=
  h.f.setWidth 8 <<< 7 ||| h.t.setWidth 8 <<< 1 ||| h.l.setWidth 8 >>> 5

/-- Byte 1 of the unit header, `lllllddd` (R60): layer[4:0] << 3 | tid (R62). -/
def headerByte1 (h : UnitHeader) : Byte := h.l.setWidth 8 <<< 3 ||| h.d.setWidth 8

/-- Byte 0 of the fragmentation header, `0uuuuuu0` (R63). -/
def fuByte0 (u : BitVec 6) : Byte := u.setWidth 8 <<< 1

/-- Byte 1 of the fragmentation header, `00000ddd` (R63). -/
def fuByte1 (d : BitVec 3) : Byte := d.setWidth 8

/-- Byte 2 of the fragmentation header, `seoooooo` (R63). -/
def fuByte2 (sb eb : BitVec 1) (o : BitVec 6) : Byte :=
  sb.setWidth 8 <<< 7 ||| eb.setWidth 8 <<< 6 ||| o.setWidth 8

/-- Whether three bytes have the fixed zero bits of the pattern `0uuuuuu0 00000ddd seoooooo` (R63). -/
def isFuPattern (b0 b1 : Byte) : Bool :=
  b0 &&& 0x81#8 == 0#8 && b1 &&& 0xF8#8 == 0#8

/-! ### Decoding -/

/-- Why bytes are no row of the opcode table. -/
inductive DecodeError where
  /-- The bytes spell none of START3, START4, UNIT_HDR, FU_HDR. In a buffer they are plain payload,
  which is not an error of the block (R66). -/
  | noFormat
deriving DecidableEq, Repr

/-- The format of a command is determined by op alone; fields a format does not list are ignored
(R53, R54). Codes 6 and 7 are the reserved commands (R55). -/
def decodeCommand (c : Command) : Instr :=
  if c.op = 0#3 then .scan c.pos c.len
  else if c.op = 1#3 then .sclen c.pos c.len
  else if c.op = 2#3 then .hdec c.hb0 c.hb1
  else if c.op = 3#3 then .henc c.fin c.tin c.lin c.din
  else if c.op = 4#3 then .iskey c.tin
  else if c.op = 5#3 then .pkt c.len c.maxsz c.ts c.ctx
  else if c.op = 6#3 then .reserved6
  else .reserved7

/-- The format that bytes in stream order spell: 2 bytes are a unit header (every pair decodes, R93),
3 bytes a start code or a fragmentation header, 4 bytes a start code. START3 is tried before FU_HDR
(log entry 10). -/
def decodeStream : List Byte → Except DecodeError Instr
  | [b0, b1] =>
    .ok (.unitHdr (headerOfBytes b0 b1).f (headerOfBytes b0 b1).t (headerOfBytes b0 b1).l
      (headerOfBytes b0 b1).d)
  | [b0, b1, b2] =>
    if b0 = 0#8 ∧ b1 = 0#8 ∧ b2 = 1#8 then .ok .start3
    else if isFuPattern b0 b1 then
      .ok (.fuHdr ((b0 >>> 1).setWidth 6) (b1.setWidth 3) ((b2 >>> 7).setWidth 1)
        ((b2 >>> 6).setWidth 1) (b2.setWidth 6))
    else .error .noFormat
  | [b0, b1, b2, b3] =>
    if b0 = 0#8 ∧ b1 = 0#8 ∧ b2 = 0#8 ∧ b3 = 1#8 then .ok .start4 else .error .noFormat
  | _ => .error .noFormat

/-- The decoder: total; a command always decodes, other bytes are rejected by name. -/
def decode : Encoded → Except DecodeError Instr
  | .command c => .ok (decodeCommand c)
  | .stream bytes => decodeStream bytes

/-! ### Encoding -/

/-- The bytes of START3 (R56). -/
def start3Bytes : List Byte := [0#8, 0#8, 1#8]

/-- The bytes of START4 (R56). -/
def start4Bytes : List Byte := [0#8, 0#8, 0#8, 1#8]

/-- The bytes of UNIT_HDR, `fttttttl lllllddd` (R60). -/
def unitHdrBytes (f : BitVec 1) (t l : BitVec 6) (d : BitVec 3) : List Byte :=
  [headerByte0 ⟨f, t, l, d⟩, headerByte1 ⟨f, t, l, d⟩]

/-- The bytes of FU_HDR, `0uuuuuu0 00000ddd seoooooo` (R63). -/
def fuHdrBytes (u : BitVec 6) (d : BitVec 3) (sb eb : BitVec 1) (o : BitVec 6) : List Byte :=
  [fuByte0 u, fuByte1 d, fuByte2 sb eb o]

/-- The encoder, from the tables of R53, R54, R56, R60 and R63. -/
def encode : Instr → Encoded
  | .scan pos len => .command { Command.zero with op := 0, pos := pos, len := len }
  | .sclen pos len => .command { Command.zero with op := 1, pos := pos, len := len }
  | .hdec hb0 hb1 => .command { Command.zero with op := 2, hb0 := hb0, hb1 := hb1 }
  | .henc fin tin lin din =>
    .command { Command.zero with op := 3, fin := fin, tin := tin, lin := lin, din := din }
  | .iskey tin => .command { Command.zero with op := 4, tin := tin }
  | .pkt len maxsz ts ctx =>
    .command { Command.zero with op := 5, len := len, maxsz := maxsz, ts := ts, ctx := ctx }
  | .reserved6 => .command { Command.zero with op := 6 }
  | .reserved7 => .command { Command.zero with op := 7 }
  | .start3 => .stream start3Bytes
  | .start4 => .stream start4Bytes
  | .unitHdr f t l d => .stream (unitHdrBytes f t l d)
  | .fuHdr u d sb eb o => .stream (fuHdrBytes u d sb eb o)

/-! ### One word of the opcode table -/

/-- The lowest 8 * n bits of a number as n bytes, the most significant byte first: the table writes a
data format "in stream order, first byte leftmost" and numbers its bits from the right. -/
def bytesOfNat : Nat → Nat → List Byte
  | 0, _ => []
  | n + 1, w => BitVec.ofNat 8 (w / 256 ^ n) :: bytesOfNat n w

/-- What a table word stands for: up to 8 bits are a command whose op is bits 2..0 and whose other
fields are 0; more bits are the bytes of a data format (log entry 10). -/
def tableEncoded (nbits w : Nat) : Encoded :=
  if nbits ≤ 8 then .command { Command.zero with op := BitVec.ofNat 3 w }
  else .stream (bytesOfNat (nbits / 8) w)

/-- The instruction the decoder reads from one word of spec/opcode_table.json. -/
def decodeTableWord (nbits w : Nat) : Option Instr :=
  match decode (tableEncoded nbits w) with
  | .ok i => some i
  | .error _ => none

end Sys2Proof
end

