-- ==== Sys2Proof/Machine/State.lean ====
section
/-! DEFINITION. The state of the machine: the registers, ports and flags of spec/10_state.md, the
buffer of spec/20_memory.md R35, and, as the model's own fields, the environment a run needs (the
host's transactions, the sink, the parameters of R5). INVENTORY.md lists every field with its rule. -/

namespace Sys2Proof.Machine

/-- BUF: (offset, byte) pairs, offsets strictly rising. An unlisted offset has no value: reading it
faults (93_implementation_defined.md U9; log entry 4). -/
abbrev Memory := List Host.Cell

/-- The canonical form above a given lower bound: every offset at least `lo`, strictly rising, and
below `top`. -/
def Memory.wfFrom (top : Nat) : Nat → Memory → Bool
  | _, [] => true
  | lo, (a, _) :: m => decide (lo ≤ a) && decide (a < top) && Memory.wfFrom top (a + 1) m

/-- The canonical form of BUF: offsets strictly rising, inside the address space 0 .. `top` - 1, where
`top` is 2^AW - 1 (R6, R35). -/
def Memory.wf (top : Nat) (m : Memory) : Bool := Memory.wfFrom top 0 m

/-- The operand registers (R16), loaded when a command is accepted. POS, LEN and MAXSZ are AW bits
wide, CTX is CTX_W, TIN and DIN are TW (log entry 1). -/
structure Operands where
  op    : BitVec 3
  pos   : Nat
  len   : Nat
  maxsz : Nat
  ts    : Stamp
  ctx   : Nat
  hb0   : Byte
  hb1   : Byte
  fin   : BitVec 1
  tin   : Nat
  lin   : BitVec 6
  din   : Nat
deriving DecidableEq, Repr

/-- The result registers (R17). RPOS is AW bits wide. -/
structure Results where
  rpos : Nat
  skip : BitVec 3
  fout : BitVec 1
  tout : BitVec 6
  lout : BitVec 6
  dout : BitVec 3
  eb0  : Byte
  eb1  : Byte
  key  : Bool
deriving DecidableEq, Repr

/-- Which operations have completed since reset. A result register that no completed operation has
written since reset holds no defined value (R17, R27): the response port shows none (log entry 3). -/
structure Written where
  scan  : Bool
  sclen : Bool
  hdec  : Bool
  henc  : Bool
  iskey : Bool
deriving DecidableEq, Repr

/-- The phases that the 4-bit register PH selects (R22). -/
inductive Phase where
  | idle | first | skip | next | single | fragInit | fragLoop | fragLast | adv | finish
deriving DecidableEq, Repr

/-- The numeric codes of R22. -/
def Phase.code : Phase → BitVec 4
  | .idle => 0
  | .first => 1
  | .skip => 2
  | .next => 3
  | .single => 4
  | .fragInit => 5
  | .fragLoop => 6
  | .fragLast => 7
  | .adv => 8
  | .finish => 9

/-- The packetizer's working registers (R21). R, CUR, R1, ULEN, FLEN, OFF and REM are AW bits wide. -/
structure Working where
  r    : Nat
  cur  : Nat
  r1   : Nat
  ulen : Nat
  mark : Bool
  flen : Nat
  fu0  : Byte
  fu1  : Byte
  fu2  : Byte
  off  : Nat
  rem  : Nat
deriving DecidableEq, Repr

/-- The packet port (R23): `valid` is the one in-flight item of R26, a packet presented and not yet
answered; `s` is PK_S, the last answer consumed (log entry 16). PK_OFF and PK_LEN are AW bits wide,
PK_CTX is CTX_W, PK_S is SINK_W. -/
structure PacketPort where
  valid : Bool
  m     : Bool
  ts    : Stamp
  fuv   : Bool
  fu0   : Byte
  fu1   : Byte
  fu2   : Byte
  off   : Nat
  len   : Nat
  ctx   : Nat
  s     : Nat
deriving DecidableEq, Repr

/-- A packet as the sink sees it: the fragmentation header is there only when PK_FUV = 1 (R23, R65). -/
structure Packet where
  m   : Bool
  ts  : Stamp
  fu  : Option FuBytes
  off : Nat
  len : Nat
  ctx : Nat
deriving DecidableEq, Repr

/-- The sink (R14 (3)): the answers it will give, in order, and the packets it has answered with
each answer. The list of answers is arbitrary (R25: "an oracle the model quantifies over"); an empty
list is a sink that does not answer (R166; log entry 7). An answer of 0 is success (R23). -/
structure Sink where
  answers  : List Nat
  received : List (Packet × Nat)
deriving DecidableEq, Repr

/-- One transaction of the host (R14 (1), R15; log entry 6). -/
inductive HostEvent where
  /-- The host does nothing during one step. -/
  | wait
  /-- A command on the command port. If it is not accepted because BUSY = 1, `hold` says whether it
  stays pending or is withdrawn, "as the host chooses" (R19). -/
  | command (c : Command) (hold : Bool)
  /-- The host lays bytes in stream order after the last byte of the buffer. -/
  | stream (bytes : List Byte)
  /-- The host binds the buffer to these bytes, from offset 0: the directive BUF of R68. -/
  | bind (bytes : List Byte)
  /-- The host stores bytes in its buffer from an offset on. -/
  | store (a : Nat) (bytes : List Byte)
  /-- The host resets the block (R157). -/
  | reset
deriving DecidableEq, Repr

/-- The whole machine. -/
structure State where
  /-- Operand registers (R16). -/
  opr     : Operands
  /-- Result registers (R17). -/
  res     : Results
  /-- Which result registers have a defined value (R17, R27). -/
  written : Written
  /-- STATUS: bit 0 BUSY, bit 1 DONE (R18). -/
  status  : BitVec 2
  /-- RESULT: bit 0 SINK, bit 1 DEC, bit 2 PARAM (R20). -/
  result  : BitVec 3
  /-- PH (R22). -/
  ph      : Phase
  /-- Working registers (R21). -/
  work    : Working
  /-- Packet port (R23). -/
  pk      : PacketPort
  /-- The widths of R5: nothing writes them (log entry 1). -/
  widths  : Widths
  /-- The parameter FU_TYPE (R8): nothing writes it (log entry 2). -/
  fuType  : BitVec 6
  /-- BUF (R35). -/
  buf     : Memory
  /-- The host's coming transactions (log entry 6). -/
  host    : List HostEvent
  /-- The sink (log entry 7). -/
  sink    : Sink
deriving DecidableEq, Repr

/-- Why the machine stops. None of these is an error of the spec, whose errors are bits of RESULT
(R137): each marks a run the spec makes no claim about. -/
inductive Fault where
  /-- A read of the block outside 0 .. LEN - 1 (R38 lets a model have this outcome, to be proved
  unreachable). Raised by `memReadByte` and `memReadWord`. Safe. -/
  | boundsFault (a n len : Nat)
  /-- A read inside LEN of a byte the host never bound: LEN is longer than the buffer (U9: "the model,
  not this spec, must `fault` if its memory is shorter than LEN"). Raised by `memReadByte` and
  `memReadWord`. Safe. -/
  | unboundByte (a : Nat)
  /-- The host stores outside the address space of offsets 0 .. 2^AW - 2 (R6, R35). Raised by
  `hostStore`. Safe. -/
  | outsideSpace (a n : Nat)
deriving DecidableEq, Repr

/-- Why the model gives a step no meaning. -/
inductive Refusal where
  /-- An instruction with no meaning yet: raised by an arm of `exec` only; no arm does. Safe. -/
  | notModelled (mnemonic : String)
  /-- The host changes the buffer while an operation is in progress (U8: "`refuse`: the buffer is a
  constant of the operation; no claim about a run that changes it"). Raised by `hostStore`. Safe. -/
  | bufferInUse
deriving DecidableEq, Repr

/-- Operand registers at reset: unspecified by R27, zero by log entry 3. -/
def Operands.reset : Operands :=
  { op := 0, pos := 0, len := 0, maxsz := 0, ts := 0, ctx := 0, hb0 := 0, hb1 := 0,
    fin := 0, tin := 0, lin := 0, din := 0 }

/-- Result registers at reset: unspecified by R27, zero by log entry 3. -/
def Results.reset : Results :=
  { rpos := 0, skip := 0, fout := 0, tout := 0, lout := 0, dout := 0, eb0 := 0, eb1 := 0,
    key := false }

/-- No operation has completed since reset (R17). -/
def Written.reset : Written :=
  { scan := false, sclen := false, hdec := false, henc := false, iskey := false }

/-- Working registers at reset: unspecified by R27, zero by log entry 3. -/
def Working.reset : Working :=
  { r := 0, cur := 0, r1 := 0, ulen := 0, mark := false, flen := 0, fu0 := 0, fu1 := 0, fu2 := 0,
    off := 0, rem := 0 }

/-- The packet port at reset: "no packet is presented" (R27); its registers are unspecified, zero by
log entry 3. -/
def PacketPort.reset : PacketPort :=
  { valid := false, m := false, ts := 0, fuv := false, fu0 := 0, fu1 := 0, fu2 := 0, off := 0,
    len := 0, ctx := 0, s := 0 }

/-- The machine right after reset (R27, R156): STATUS = 0, RESULT = 0, PH = IDLE, no packet
presented; no buffer bound, no transaction of the host, no answer of the sink. -/
def State.reset : State :=
  { opr := Operands.reset
    res := Results.reset
    written := Written.reset
    status := 0
    result := 0
    ph := .idle
    work := Working.reset
    pk := PacketPort.reset
    widths := Widths.default
    fuType := Config.fuTypeDefault
    buf := []
    host := []
    sink := { answers := [], received := [] } }

end Sys2Proof.Machine
end

