-- ==== Sys2Proof/Machine/Flags.lean ====
section
/-! DEFINITION. Every flag of the block (spec/10_state.md R24): the bits of STATUS and RESULT, and
the Start and End bits of FU2. MARK is computed in phase NEXT and KEY by ISKEY. -/

namespace Sys2Proof.Machine

/-- STATUS as one word from BUSY and DONE: bit 0 BUSY, bit 1 DONE (R18). -/
def statusWord : Bool → Bool → BitVec 2
  | false, false => 0
  | true, false => 1
  | false, true => 2
  | true, true => 3

/-- STATUS.BUSY. -/
def State.busy (s : State) : Bool := s.status.getLsbD 0

/-- STATUS.DONE. -/
def State.done (s : State) : Bool := s.status.getLsbD 1

/-- RESULT.SINK. -/
def State.sinkErr (s : State) : Bool := s.result.getLsbD 0

/-- RESULT.DEC. -/
def State.decErr (s : State) : Bool := s.result.getLsbD 1

/-- RESULT.PARAM. -/
def State.paramErr (s : State) : Bool := s.result.getLsbD 2

/-- What RESULT.SINK takes from one answer of the sink: 0 is success, anything else failure (R23,
R136; "Wider sink codes of an original are collapsed to one bit", D15; log entry 24). -/
def sinkFailed (a : Nat) : Bool := a != 0

/-- The code of the Sink error (R136). -/
def sinkCode : BitVec 3 := 1

/-- The code of the Malformed-Unit error (R136). -/
def decCode : BitVec 3 := 2

/-- The code of the Parameter error (R136). -/
def paramCode : BitVec 3 := 4

/-- The Start bit of FU2 (R63). -/
def startBit (fu2 : Byte) : Bool := fu2.getLsbD 7

/-- The End bit of FU2 (R63). -/
def endBit (fu2 : Byte) : Bool := fu2.getLsbD 6

/-- FU2 of the first fragment of a unit of type t: 0x80 | t (R116). -/
def fu2First (t : BitVec 6) : Byte := 0x80#8 ||| t.setWidth 8

/-- FU2 with the Start bit cleared: FU2 & 0x7F (R117). -/
def fu2ClearStart (fu2 : Byte) : Byte := fu2 &&& 0x7F#8

/-- FU2 with the End bit set: FU2 | 0x40 (R118). -/
def fu2SetEnd (fu2 : Byte) : Byte := fu2 ||| 0x40#8

end Sys2Proof.Machine
end

