-- ==== Sys2Proof/Machine/Operands.lean ====
section
/-! DEFINITION. Every operand form: the operand registers each command format loads at acceptance
(spec/30_encoding.md R54, spec/10_state.md R16), each field at the width of the register it loads
(what a term's operand has above that width is dropped: DESIGN CHOICE, log entry 25). Registers a
format does not name are left unchanged. -/

namespace Sys2Proof.Machine

/-- Format S (SCAN, SCLEN): POS, LEN. -/
def loadS (w : Widths) (op : BitVec 3) (pos len : Nat) (r : Operands) : Operands :=
  { r with op := op, pos := w.pos pos, len := w.pos len }

/-- Format D (HDEC): HB0, HB1. -/
def loadD (op : BitVec 3) (hb0 hb1 : Byte) (r : Operands) : Operands :=
  { r with op := op, hb0 := hb0, hb1 := hb1 }

/-- Format E (HENC): FIN, TIN, LIN, DIN. -/
def loadE (w : Widths) (op : BitVec 3) (fin : BitVec 1) (tin : Nat) (lin : BitVec 6) (din : Nat)
    (r : Operands) : Operands :=
  { r with op := op, fin := fin, tin := w.typ tin, lin := lin, din := w.typ din }

/-- Format K (ISKEY): TIN. -/
def loadK (w : Widths) (op : BitVec 3) (tin : Nat) (r : Operands) : Operands :=
  { r with op := op, tin := w.typ tin }

/-- Format P (PKT): LEN, MAXSZ, TS, CTX. -/
def loadP (w : Widths) (op : BitVec 3) (len maxsz : Nat) (ts : Stamp) (ctx : Nat) (r : Operands) :
    Operands :=
  { r with op := op, len := w.pos len, maxsz := w.pos maxsz, ts := ts, ctx := w.ctx ctx }

/-- A reserved op: a command with no operand field (R55). -/
def loadNone (op : BitVec 3) (r : Operands) : Operands :=
  { r with op := op }

end Sys2Proof.Machine
end

