-- ==== Sys2Proof/Machine/Ops.lean ====
section
/-! DEFINITION. The shared operations: reads of BUF (spec/20_memory.md), acceptance and completion of
a command (spec/10_state.md R19, R28), raising a condition (spec/60_exceptions.md: what stands for
taking an exception), emission of a packet (spec/43_packetizer.md R121), the host's stores and reset. -/

namespace Sys2Proof.Machine

/-! ### The buffer -/

/-- The byte at an offset, if the host bound one. -/
def memRead? : Memory → Nat → Option Byte
  | [], _ => none
  | (k, b) :: m, a => if k = a then some b else memRead? m a

/-- One byte of BUF as software reads it from a state. -/
def State.byteAt (s : State) (a : Nat) : Option Byte := memRead? s.buf a

/-- `MemRead(a, 1)` with the bound of R38: a + 1 ≤ LEN, else a bounds fault; a byte inside LEN that
the host never bound faults too (U9). -/
def memReadByte (m : Memory) (len a : Nat) : Except Fault Byte :=
  if a + 1 ≤ len then
    match memRead? m a with
    | some b => .ok b
    | none => .error (.unboundByte a)
  else .error (.boundsFault a 1 len)

/-- Four bytes as one 32-bit value, the first most significant. -/
def wordOfBytes (b0 b1 b2 b3 : Byte) : BitVec 32 :=
  b0.setWidth 32 <<< 24 ||| b1.setWidth 32 <<< 16 ||| b2.setWidth 32 <<< 8 ||| b3.setWidth 32

/-- `MemRead(a, 4)` (R43): the bytes at a .. a+3, here with the first byte most significant; the order
is immaterial (R43, R79). -/
def memReadWord (m : Memory) (len a : Nat) : Except Fault (BitVec 32) :=
  if a + 4 ≤ len then do
    let b0 ← memReadByte m len a
    let b1 ← memReadByte m len (a + 1)
    let b2 ← memReadByte m len (a + 2)
    let b3 ← memReadByte m len (a + 3)
    pure (wordOfBytes b0 b1 b2 b3)
  else .error (.boundsFault a 4 len)

/-- Whether the bytes from an offset on are the given ones, read left to right and no further than
the first difference (spec/00_scope.md section 6: `and` short-circuits). -/
def matchBytes (m : Memory) (len : Nat) : Nat → List Byte → Except Fault Bool
  | _, [] => .ok true
  | a, v :: vs =>
    match memReadByte m len a with
    | .error f => .error f
    | .ok b => if b = v then matchBytes m len (a + 1) vs else .ok false

/-- The memory with one byte stored, in canonical form: offsets stay strictly rising. An unlisted
offset has no value, so no byte equals it and every stored byte is listed. -/
def memWrite : Memory → Nat → Byte → Memory
  | [], a, v => [(a, v)]
  | (k, b) :: m, a, v =>
    if a < k then (a, v) :: (k, b) :: m
    else if a = k then (a, v) :: m
    else (k, b) :: memWrite m a v

/-- The memory with bytes stored in stream order from an offset on (R42: byte 0 lowest). -/
def memWriteBytes : Memory → Nat → List Byte → Memory
  | m, _, [] => m
  | m, a, v :: vs => memWriteBytes (memWrite m a v) (a + 1) vs

/-- One past the highest bound offset: where the host lays the next byte of the stream. -/
def memTop : Memory → Nat
  | [] => 0
  | [(a, _)] => a + 1
  | _ :: c :: m => memTop (c :: m)

/-- Every offset below `len` is bound: what "LEN is its exact length" (R160 (b), R161) gives the
block's reads. -/
def Memory.boundTo (m : Memory) (len : Nat) : Prop := ∀ a, a < len → (memRead? m a).isSome = true

/-! ### Acceptance and completion of a command -/

/-- Acceptance (R19): the operand registers load, RESULT <- 0, DONE <- 0, BUSY <- 1. -/
def accept (load : Operands → Operands) (s : State) : State :=
  { s with opr := load s.opr, result := 0, status := statusWord true false }

/-- Completion (R28): BUSY <- 0, DONE <- 1, PH <- IDLE. The result registers are written before. -/
def complete (s : State) : State :=
  { s with status := statusWord false true, ph := .idle }

/-- A command on the command port: accepted if and only if BUSY = 0, else no effect (R19). -/
def onCommandPort (load : Operands → Operands) (run : State → Host.Outcome State Fault Refusal)
    (s : State) : Host.Outcome State Fault Refusal :=
  if s.busy then .next s else run (accept load s)

/-- The outcome of a computation over BUF: its fault, or what follows from its value. -/
def withValue {α : Type} (x : Except Fault α) (k : α → Host.Outcome State Fault Refusal) :
    Host.Outcome State Fault Refusal :=
  match x with
  | .error f => .fault f
  | .ok v => k v

/-! ### Raising a condition

"Nothing traps": raising sets a bit of RESULT and execution goes on with the next statement; there is
no handler, no saved program counter, no mode change (R137, R144). There is no return: RESULT is
cleared when the next command is accepted (R145). Bits are sticky within one operation (R20). -/

/-- `raise SINK(s)`: RESULT.SINK <- RESULT.SINK | s (R9, R139). -/
def raiseSink (a : Nat) (s : State) : State :=
  { s with result := s.result ||| (if sinkFailed a then sinkCode else 0) }

/-- `raise DEC`: RESULT.DEC <- 1 (R9, R138). -/
def raiseDec (s : State) : State := { s with result := s.result ||| decCode }

/-- `raise PARAM`: RESULT.PARAM <- 1 (R9, R141). -/
def raiseParam (s : State) : State := { s with result := s.result ||| paramCode }

/-- `PH <- phase` (R9). -/
def toPhase (p : Phase) (s : State) : State := { s with ph := p }

/-! ### The packet port -/

/-- The descriptor on the packet port as the sink sees it (R23). -/
def packetView (p : PacketPort) : Packet :=
  { m := p.m, ts := p.ts, fu := if p.fuv then some ⟨p.fu0, p.fu1, p.fu2⟩ else none,
    off := p.off, len := p.len, ctx := p.ctx }

/-- `Emit`, step (a): present the packet (R121). PK_FU0 .. PK_FU2 are written only when there is a
fragmentation header. -/
def present (m : Bool) (fu : Option FuBytes) (off n : Nat) (s : State) : State :=
  { s with
    pk := { s.pk with
      valid := true, m := m, ts := s.opr.ts, ctx := s.opr.ctx, fuv := fu.isSome,
      fu0 := (fu.map FuBytes.b0).getD s.pk.fu0, fu1 := (fu.map FuBytes.b1).getD s.pk.fu1,
      fu2 := (fu.map FuBytes.b2).getD s.pk.fu2, off := off, len := n } }

/-- `Emit`, step (b): the sink's answer is consumed, PK_S is the answer, the packet is withdrawn
(R121), and RESULT.SINK takes the answer in (R122). -/
def answered (a : Nat) (rest : List Nat) (s : State) : State :=
  raiseSink a
    { s with
      pk := { s.pk with valid := false, s := a }
      sink := { answers := rest, received := s.sink.received ++ [(packetView s.pk, a)] } }

/-- One step of an emitting phase: `put` presents the packet if none is on the port; else the sink's
answer is awaited, and `after` is what the phase does with it. Without an answer nothing moves (R166). -/
def emitStep (put after : State → State) (s : State) : Host.Outcome State Fault Refusal :=
  if s.pk.valid then
    match s.sink.answers with
    | [] => .next s
    | a :: rest => .next (after (answered (s.widths.answer a) rest s))
  else .next (put s)

/-- The size of a packet, 3 × PK_FUV + PK_LEN (R65). -/
def Packet.size (p : Packet) : Nat := (if p.fu.isSome then 3 else 0) + p.len

/-- The bytes a packet's payload reference designates, as the sink reads them (R49); a byte never
bound reads as none. -/
def payloadFrom (m : Memory) : Nat → Nat → List (Option Byte)
  | _, 0 => []
  | a, n + 1 => memRead? m a :: payloadFrom m (a + 1) n

/-- The payload of a packet: B[PK_OFF .. PK_OFF + PK_LEN) (R49). -/
def Packet.payload (m : Memory) (p : Packet) : List (Option Byte) :=
  payloadFrom m p.off p.len

/-! ### The host -/

/-- The rest of the host's transactions. -/
def State.withHost (s : State) (h : List HostEvent) : State := { s with host := h }

/-- The host stores bytes in its buffer. While BUSY = 1 it must not (R36, U8: refused). Outside the
address space there is nothing to store to (R6). -/
def hostStore (base : Memory) (a : Nat) (bytes : List Byte) (s : State) :
    Host.Outcome State Fault Refusal :=
  if s.busy then .refused .bufferInUse
  else if a + bytes.length ≤ s.widths.maxLen then .next { s with buf := memWriteBytes base a bytes }
  else .fault (.outsideSpace a bytes.length)

/-- The host lays bytes after the last byte of its buffer. -/
def hostLay (bytes : List Byte) (s : State) : Host.Outcome State Fault Refusal :=
  hostStore s.buf (memTop s.buf) bytes s

/-- Reset (R156, R157): the block takes the state of R27, an operation in progress is abandoned and
its unanswered packet withdrawn. The buffer, the host, the sink and its packets already answered are
not the block's (log entry 12). -/
def resetBlock (s : State) : State :=
  { State.reset with widths := s.widths, fuType := s.fuType, buf := s.buf, host := s.host, sink := s.sink }

/-- The table word on the port where the next step takes it, with the block ready to accept it:
BUSY = 0, and then PH = IDLE with no packet presented (R22, R26; log entry 20). -/
def placeOnPort (x : Encoded) (s : State) : State :=
  match x with
  | .command c =>
    { s with
      host := .command c true :: s.host, status := statusWord false s.done, ph := .idle,
      pk := { s.pk with valid := false } }
  | .stream bytes =>
    { s with
      host := .stream bytes :: s.host, status := statusWord false s.done, ph := .idle,
      pk := { s.pk with valid := false } }

end Sys2Proof.Machine
end

