-- ==== Sys2Proof/Machine/Classifier.lean ====
section
/-! DEFINITION. The keyframe classifier (spec/42_classifier.md): ISKEY. -/

namespace Sys2Proof.Machine

/-- The keyframe predicate: 16 ≤ TIN ≤ 21 on the whole TW-bit value, not masked (R101, R102). -/
def isKey (t : Nat) : Bool := decide (Config.keyLo ≤ t) && decide (t ≤ Config.keyHi)

/-- KEY written (R102). -/
def writeKey (k : Bool) (s : State) : State :=
  { s with res := { s.res with key := k }, written := { s.written with iskey := true } }

/-- ISKEY: `KEY <- 1 if 16 <= TIN and TIN <= 21 else 0` (R102). -/
def execIskey (tin : Nat) (s : State) : Host.Outcome State Fault Refusal :=
  onCommandPort (loadK s.widths 4 tin) (fun t => .next (complete (writeKey (isKey t.opr.tin) t))) s

end Sys2Proof.Machine
end

