-- ==== Sys2Proof/Machine/Codec.lean ====
section
/-! DEFINITION. The unit-header codec (spec/41_header_codec.md): HDec, HEnc and the meanings of HDEC
and HENC. -/

namespace Sys2Proof.Machine

/-- `HDec(b0, b1)` (R91). -/
def hdecFn (b0 b1 : Byte) : UnitHeader := headerOfBytes b0 b1

/-- The header HEnc encodes: t and d masked to their field widths, "values outside range are silently
truncated rather than rejected": t & 0x3F and d & 0x07 are the low six and three bits (R62, R94). -/
def maskHeader (f : BitVec 1) (t : Nat) (l : BitVec 6) (d : Nat) : UnitHeader :=
  { f := f, t := BitVec.ofNat 6 t, l := l, d := BitVec.ofNat 3 d }

/-- `HEnc(f, t, l, d)`, bytes 0 and 1 (R94). -/
def hencFn (f : BitVec 1) (t : Nat) (l : BitVec 6) (d : Nat) : Byte × Byte :=
  (headerByte0 (maskHeader f t l d), headerByte1 (maskHeader f t l d))

/-- FOUT, TOUT, LOUT, DOUT written (R92). -/
def writeHeader (h : UnitHeader) (s : State) : State :=
  { s with
    res := { s.res with fout := h.f, tout := h.t, lout := h.l, dout := h.d }
    written := { s.written with hdec := true } }

/-- EB0, EB1 written (R95). -/
def writeBytes (b : Byte × Byte) (s : State) : State :=
  { s with
    res := { s.res with eb0 := b.1, eb1 := b.2 }, written := { s.written with henc := true } }

/-- HDEC: `(FOUT, TOUT, LOUT, DOUT) <- HDec(HB0, HB1)` (R92). -/
def execHdec (hb0 hb1 : Byte) (s : State) : Host.Outcome State Fault Refusal :=
  onCommandPort (loadD 2 hb0 hb1) (fun t =>
    .next (complete (writeHeader (hdecFn t.opr.hb0 t.opr.hb1) t))) s

/-- HENC: `(EB0, EB1) <- HEnc(FIN, TIN, LIN, DIN)` (R95). -/
def execHenc (fin : BitVec 1) (tin : Nat) (lin : BitVec 6) (din : Nat) (s : State) :
    Host.Outcome State Fault Refusal :=
  onCommandPort (loadE s.widths 3 fin tin lin din) (fun t =>
    .next (complete (writeBytes (hencFn t.opr.fin t.opr.tin t.opr.lin t.opr.din) t))) s

end Sys2Proof.Machine
end

