-- ==== Sys2Proof/Machine/Formats.lean ====
section
/-! DEFINITION. The data-format rows of the opcode table. No op selects them, so they are no
operations of the block; what the spec lets be done with them is the host's: lay their bytes in the
buffer it owns, in stream order, while no operation is in progress (spec/20_memory.md R35, R36, R42;
the directive BUF of spec/30_encoding.md R68). The block changes nothing (DESIGN CHOICE, log entry 9). -/

namespace Sys2Proof.Machine

/-- START3 laid in the buffer: `00 00 01` (R56). -/
def execStart3 (s : State) : Host.Outcome State Fault Refusal := hostLay start3Bytes s

/-- START4 laid in the buffer: `00 00 00 01` (R56). -/
def execStart4 (s : State) : Host.Outcome State Fault Refusal := hostLay start4Bytes s

/-- UNIT_HDR laid in the buffer: `fttttttl lllllddd` (R60). -/
def execUnitHdr (f : BitVec 1) (t l : BitVec 6) (d : BitVec 3) (s : State) :
    Host.Outcome State Fault Refusal :=
  hostLay (unitHdrBytes f t l d) s

/-- FU_HDR laid in the buffer: `0uuuuuu0 00000ddd seoooooo` (R63). -/
def execFuHdr (u : BitVec 6) (d : BitVec 3) (sb eb : BitVec 1) (o : BitVec 6) (s : State) :
    Host.Outcome State Fault Refusal :=
  hostLay (fuHdrBytes u d sb eb o) s

end Sys2Proof.Machine
end

