-- ==== Sys2Proof/Machine/Scanner.lean ====
section
/-! DEFINITION. The start-code scanner (spec/40_scanner.md): Match3, Scan, SkipLen, the meanings of
SCAN and SCLEN, and the three-phase realisation ScanFast with its zero-byte test. Positions are
unbounded integers here, so that no comparison wraps (R86). -/

namespace Sys2Proof.Machine

/-- `Match3(p)` (R75): the bound is tested first. -/
def match3 (m : Memory) (len p : Nat) : Except Fault Bool :=
  if p + 2 < len then matchBytes m len p start3Bytes else .ok false

/-- The byte-wise linear scan of R76; the fuel is the number of positions left. -/
def scanLoop (m : Memory) (len : Nat) : Nat → Nat → Except Fault Nat
  | 0, _ => .ok len
  | n + 1, p =>
    if p + 2 < len then
      match match3 m len p with
      | .error f => .error f
      | .ok true => .ok p
      | .ok false => scanLoop m len n (p + 1)
    else .ok len

/-- `Scan(pos)` (R76): the least position at or after pos where Match3 holds, or LEN. -/
def scan (m : Memory) (len pos : Nat) : Except Fault Nat := scanLoop m len (len - pos) pos

/-- `SkipLen(pos)` (R82): 4-byte form first, then the 3-byte form, at exactly pos. -/
def skipLen (m : Memory) (len pos : Nat) : Except Fault (BitVec 3) :=
  if pos ≤ len ∧ len - pos ≥ 4 then
    match matchBytes m len pos start4Bytes with
    | .error f => .error f
    | .ok true => .ok 4
    | .ok false =>
      match matchBytes m len pos start3Bytes with
      | .error f => .error f
      | .ok true => .ok 3
      | .ok false => .ok 0
  else if pos ≤ len ∧ len - pos ≥ 3 then
    match matchBytes m len pos start3Bytes with
    | .error f => .error f
    | .ok true => .ok 3
    | .ok false => .ok 0
  else .ok 0

/-! ### The three-phase realisation (R78; exec does not use it, log entry 17) -/

/-- `haszero(x)` (R79): "a branchless test that flags a word containing at least one zero byte". -/
def haszero (x : BitVec 32) : Bool :=
  (x - 0x01010101#32) &&& ~~~x &&& 0x80808080#32 != 0#32

/-- Phases 1 and 3 of R78 step byte by byte; `more p` says whether the phase goes on at p. The result
is a position found, or the position at which the phase ended. -/
def fastBytes (m : Memory) (len : Nat) (more : Nat → Bool) : Nat → Nat → Except Fault (Nat ⊕ Nat)
  | 0, p => .ok (.inr p)
  | n + 1, p =>
    if more p then
      match match3 m len p with
      | .error f => .error f
      | .ok true => .ok (.inl p)
      | .ok false => fastBytes m len more n (p + 1)
    else .ok (.inr p)

/-- The probe of the four sub-positions, ascending (R78). -/
def fastProbe (m : Memory) (len : Nat) : Nat → Nat → Except Fault (Option Nat)
  | 0, _ => .ok none
  | n + 1, p =>
    match match3 m len p with
    | .error f => .error f
    | .ok true => .ok (some p)
    | .ok false => fastProbe m len n (p + 1)

/-- Phase 2 of R78: aligned words while p + 3 ≤ last. -/
def fastWords (m : Memory) (len last : Nat) : Nat → Nat → Except Fault (Nat ⊕ Nat)
  | 0, p => .ok (.inr p)
  | n + 1, p =>
    if p + 3 ≤ last then
      match memReadWord m len p with
      | .error f => .error f
      | .ok x =>
        if haszero x then
          match fastProbe m len 4 p with
          | .error f => .error f
          | .ok (some q) => .ok (.inl q)
          | .ok none => fastWords m len last n (p + Config.word)
        else fastWords m len last n (p + Config.word)
    else .ok (.inr p)

/-- `ScanFast(pos)` (R78), with BASE_ALIGN = a0. -/
def scanFast (m : Memory) (len a0 pos : Nat) : Except Fault Nat :=
  if len < 3 ∨ pos > len - 3 then .ok len
  else
    match fastBytes m len (fun p => p ≤ len - 3 && (a0 + p) % Config.word != 0) (len - pos) pos with
    | .error f => .error f
    | .ok (.inl q) => .ok q
    | .ok (.inr p1) =>
      match fastWords m len (len - 3) (len - p1) p1 with
      | .error f => .error f
      | .ok (.inl q) => .ok q
      | .ok (.inr p2) =>
        match fastBytes m len (fun p => p ≤ len - 3) (len - p2) p2 with
        | .error f => .error f
        | .ok (.inl q) => .ok q
        | .ok (.inr _) => .ok len

/-! ### SCAN and SCLEN -/

/-- RPOS written (R77). -/
def writeRpos (p : Nat) (s : State) : State :=
  { s with
    res := { s.res with rpos := p }, written := { s.written with scan := true } }

/-- SKIP written (R83). -/
def writeSkip (k : BitVec 3) (s : State) : State :=
  { s with res := { s.res with skip := k }, written := { s.written with sclen := true } }

/-- SCAN: `RPOS <- Scan(POS)` (R77). -/
def execScan (pos len : Nat) (s : State) : Host.Outcome State Fault Refusal :=
  onCommandPort (loadS s.widths 0 pos len) (fun t =>
    withValue (scan t.buf t.opr.len t.opr.pos) fun p =>
      .next (complete (writeRpos p t))) s

/-- SCLEN: `SKIP <- SkipLen(POS)` (R83). -/
def execSclen (pos len : Nat) (s : State) : Host.Outcome State Fault Refusal :=
  onCommandPort (loadS s.widths 1 pos len) (fun t =>
    withValue (skipLen t.buf t.opr.len t.opr.pos) fun k =>
      .next (complete (writeSkip k t))) s

end Sys2Proof.Machine
end

