-- ==== Sys2Proof/Machine/Packetizer.lean ====
section
/-! DEFINITION. The payload packetizer (spec/43_packetizer.md): the acceptance of PKT (R107, R108),
its phases, one atomic step each (R109 to R120), and beside them the whole operation as the pseudocode
of R106 gives it, which the phases refine. -/

namespace Sys2Proof.Machine

/-! ### Acceptance -/

/-- R108: MAXSZ < 4 raises PARAM and goes to FINISH, else FIRST. -/
def checkMaxsz (s : State) : State :=
  if s.opr.maxsz < Config.minMaxsz then toPhase .finish (raiseParam s) else toPhase .first s

/-- PKT (R106, R107): accepted here; the phases run it. -/
def execPkt (len maxsz : Nat) (ts : Stamp) (ctx : Nat) (s : State) :
    Host.Outcome State Fault Refusal :=
  onCommandPort (loadP s.widths 5 len maxsz ts ctx) (fun t => .next (checkMaxsz t)) s

/-! ### The phases -/

/-- The zero run of R110: while CUR < LEN and B[CUR] = 0x00, CUR + 1; the fuel is the number of
positions left. -/
def skipZeros (m : Memory) (len : Nat) : Nat → Nat → Except Fault Nat
  | 0, p => .ok p
  | n + 1, p =>
    if p < len then
      match memReadByte m len p with
      | .error f => .error f
      | .ok b => if b = 0#8 then skipZeros m len n (p + 1) else .ok p
    else .ok p

/-- Where a unit begins whose start code is at r: after the 3-byte core and the zero run (R110). -/
def unitStart (m : Memory) (len r : Nat) : Except Fault Nat := skipZeros m len (len - (r + 3)) (r + 3)

/-- FIRST (R109). -/
def phaseFirst (s : State) : Host.Outcome State Fault Refusal :=
  withValue (scan s.buf s.opr.len 0) fun p =>
    .next { s with
      work := { s.work with r := p }
      ph := if p < s.opr.len then .skip else .finish }

/-- SKIP (R110). -/
def phaseSkip (s : State) : Host.Outcome State Fault Refusal :=
  withValue (unitStart s.buf s.opr.len s.work.r) fun c =>
    .next { s with work := { s.work with cur := c }, ph := .next }

/-- NEXT (R111): the next start code, the marker and the extent of the unit. -/
def phaseNext (s : State) : Host.Outcome State Fault Refusal :=
  withValue (scan s.buf s.opr.len s.work.cur) fun p =>
    .next { s with
      work := { s.work with
        r1 := p
        mark := decide (p = s.opr.len)
        ulen := p - s.work.cur }
      ph := if p - s.work.cur ≤ s.opr.maxsz then .single
            else .fragInit }

/-- SINGLE (R112): the whole unit as one packet. -/
def phaseSingle (s : State) : Host.Outcome State Fault Refusal :=
  emitStep (fun t => present t.work.mark none t.work.cur t.work.ulen t) (toPhase .adv) s

/-- The working registers after the header build of R116, from the unit's two header bytes. -/
def fragHeader (fuType : BitVec 6) (b0 b1 : Byte) (w : Working) : Working :=
  { w with
    fu0 := (hencFn 0 fuType.toNat 0 (hdecFn b0 b1).d.toNat).1
    fu1 := (hencFn 0 fuType.toNat 0 (hdecFn b0 b1).d.toNat).2
    fu2 := fu2First (hdecFn b0 b1).t
    off := w.cur + 2
    rem := w.ulen - 2 }

/-- FLEN <- MAXSZ - 3 on entry to FRAG_INIT (R114). -/
def setFlen (s : State) : State := { s with work := { s.work with flen := s.opr.maxsz - 3 } }

/-- FRAG_INIT (R114, R115, R116). -/
def phaseFragInit (s : State) : Host.Outcome State Fault Refusal :=
  if s.work.ulen < 2 then .next (toPhase .adv (raiseDec (setFlen s)))
  else
    withValue (memReadByte s.buf s.opr.len s.work.cur) fun b0 =>
      withValue (memReadByte s.buf s.opr.len (s.work.cur + 1)) fun b1 =>
        .next { setFlen s with
          work := fragHeader s.fuType b0 b1 (setFlen s).work
          ph := .fragLoop }

/-- The fragmentation header being sent: FU0, FU1, FU2 (R21). -/
def Working.fuBytes (w : Working) : FuBytes := ⟨w.fu0, w.fu1, w.fu2⟩

/-- After a non-final fragment is answered: OFF, REM move on, the Start bit is cleared (R117). -/
def fragAdvance (s : State) : State :=
  { s with
    work := { s.work with
      off := s.work.off + s.work.flen
      rem := s.work.rem - s.work.flen
      fu2 := fu2ClearStart s.work.fu2 } }

/-- FRAG_LOOP (R117): a fragment while REM > FLEN, else on to FRAG_LAST. A packet already presented is
awaited first. -/
def phaseFragLoop (s : State) : Host.Outcome State Fault Refusal :=
  if s.pk.valid ∨ s.work.flen < s.work.rem then
    emitStep (fun t => present false (some t.work.fuBytes) t.work.off t.work.flen t) fragAdvance s
  else .next (toPhase .fragLast s)

/-- FU2 <- FU2 | 0x40 (R118). -/
def setEnd (s : State) : State := { s with work := { s.work with fu2 := fu2SetEnd s.work.fu2 } }

/-- The final fragment on the port, with the End bit set (R118). -/
def presentLast (s : State) : State :=
  present s.work.mark (some (setEnd s).work.fuBytes) s.work.off s.work.rem (setEnd s)

/-- FRAG_LAST (R118). -/
def phaseFragLast (s : State) : Host.Outcome State Fault Refusal :=
  emitStep presentLast (toPhase .adv) s

/-- ADV (R119). -/
def phaseAdv (s : State) : Host.Outcome State Fault Refusal :=
  .next { s with
    work := { s.work with r := s.work.r1 }
    ph := if s.work.r1 < s.opr.len then .skip else .finish }

/-- FINISH (R120): the completion step of R28. -/
def phaseFinish (s : State) : Host.Outcome State Fault Refusal := .next (complete s)

/-- One step of the AFP sequencer: PH selects it (R22). In IDLE the block waits (R158). -/
def blockStep (s : State) : Host.Outcome State Fault Refusal :=
  match s.ph with
  | .idle => .next s
  | .first => phaseFirst s
  | .skip => phaseSkip s
  | .next => phaseNext s
  | .single => phaseSingle s
  | .fragInit => phaseFragInit s
  | .fragLoop => phaseFragLoop s
  | .fragLast => phaseFragLast s
  | .adv => phaseAdv s
  | .finish => phaseFinish s

/-! ### The whole operation (R106) -/

/-- What one PKT reads beside BUF. -/
structure PktArgs where
  len    : Nat
  maxsz  : Nat
  ts     : Stamp
  ctx    : Nat
  fuType : BitVec 6
deriving DecidableEq, Repr

/-- What one PKT gives beside the sink's answers: the packets in order, and whether DEC or PARAM was
raised. -/
structure PktRun where
  packets : List Packet
  dec     : Bool
  param   : Bool
deriving DecidableEq, Repr

/-- One packet of the operation: TS and CTX are copied unchanged (R124). -/
def PktArgs.packet (a : PktArgs) (m : Bool) (fu : Option FuBytes) (off n : Nat) : Packet :=
  { m := m, ts := a.ts, fu := fu, off := off, len := n, ctx := a.ctx }

/-- The fragment loop and the final fragment of R106; the fuel is REM, which every turn decreases. -/
def refFragments (a : PktArgs) (mark : Bool) (flen : Nat) :
    Nat → FuBytes → Nat → Nat → List Packet
  | 0, fu, off, rem => [a.packet mark (some { fu with b2 := fu2SetEnd fu.b2 }) off rem]
  | n + 1, fu, off, rem =>
    if flen < rem then
      a.packet false (some fu) off flen ::
        refFragments a mark flen n { fu with b2 := fu2ClearStart fu.b2 } (off + flen) (rem - flen)
    else [a.packet mark (some { fu with b2 := fu2SetEnd fu.b2 }) off rem]

/-- The fragmentation header of the first fragment of a unit with header bytes b0, b1 (R116). -/
def firstFuBytes (fuType : BitVec 6) (b0 b1 : Byte) : FuBytes :=
  { b0 := (hencFn 0 fuType.toNat 0 (hdecFn b0 b1).d.toNat).1
    b1 := (hencFn 0 fuType.toNat 0 (hdecFn b0 b1).d.toNat).2
    b2 := fu2First (hdecFn b0 b1).t }

/-- The packets of the unit B[cur .. r1), and whether it raised DEC (R106, steps 3 to 5). -/
def refUnit (m : Memory) (a : PktArgs) (cur r1 : Nat) : Except Fault (List Packet × Bool) :=
  if r1 - cur ≤ a.maxsz then .ok ([a.packet (decide (r1 = a.len)) none cur (r1 - cur)], false)
  else if r1 - cur < 2 then .ok ([], true)
  else
    match memReadByte m a.len cur, memReadByte m a.len (cur + 1) with
    | .ok b0, .ok b1 =>
      .ok (refFragments a (decide (r1 = a.len)) (a.maxsz - 3) (r1 - cur - 2)
        (firstFuBytes a.fuType b0 b1) (cur + 2) (r1 - cur - 2), false)
    | .error f, _ => .error f
    | .ok _, .error f => .error f

/-- `while R < LEN` of R106; the fuel is the number of positions left, which every unit decreases. -/
def refUnits (m : Memory) (a : PktArgs) : Nat → Nat → Except Fault (List Packet × Bool)
  | 0, _ => .ok ([], false)
  | n + 1, r =>
    if r < a.len then
      match unitStart m a.len r with
      | .error f => .error f
      | .ok cur =>
        match scan m a.len cur with
        | .error f => .error f
        | .ok r1 =>
          match refUnit m a cur r1, refUnits m a n r1 with
          | .ok u, .ok us => .ok (u.1 ++ us.1, u.2 || us.2)
          | .error f, _ => .error f
          | .ok _, .error f => .error f
    else .ok ([], false)

/-- `Packetize()` (R106). -/
def packetize (m : Memory) (a : PktArgs) : Except Fault PktRun :=
  if a.maxsz < Config.minMaxsz then .ok { packets := [], dec := false, param := true }
  else
    match scan m a.len 0 with
    | .error f => .error f
    | .ok r =>
      match refUnits m a (a.len - r) r with
      | .error f => .error f
      | .ok us => .ok { packets := us.1, dec := us.2, param := false }

end Sys2Proof.Machine
end

