-- ==== Sys2Proof/Machine/Reserved.lean ====
section
/-! DEFINITION. The reserved operation codes 6 and 7 (spec/30_encoding.md R55): accepted like any
other command, completed in the same step with RESULT.PARAM = 1, nothing else written. -/

namespace Sys2Proof.Machine

/-- Reserved op 6 (R55). -/
def execReserved6 (s : State) : Host.Outcome State Fault Refusal :=
  onCommandPort (loadNone 6) (fun t => .next (complete (raiseParam t))) s

/-- Reserved op 7 (R55). -/
def execReserved7 (s : State) : Host.Outcome State Fault Refusal :=
  onCommandPort (loadNone 7) (fun t => .next (complete (raiseParam t))) s

end Sys2Proof.Machine
end

