-- ==== Sys2Proof/Machine/Dispatch.lean ====
section
/-! DEFINITION. One arm per constructor of Instr, each one direct call of its meaning. -/

namespace Sys2Proof.Machine

def exec (i : Instr) (s : State) : Host.Outcome State Fault Refusal :=
  match i with
  | .scan pos len => Sys2Proof.Machine.execScan pos len s
  | .sclen pos len => Sys2Proof.Machine.execSclen pos len s
  | .hdec hb0 hb1 => Sys2Proof.Machine.execHdec hb0 hb1 s
  | .henc fin tin lin din => Sys2Proof.Machine.execHenc fin tin lin din s
  | .iskey tin => Sys2Proof.Machine.execIskey tin s
  | .pkt len maxsz ts ctx => Sys2Proof.Machine.execPkt len maxsz ts ctx s
  | .reserved6 => Sys2Proof.Machine.execReserved6 s
  | .reserved7 => Sys2Proof.Machine.execReserved7 s
  | .start3 => Sys2Proof.Machine.execStart3 s
  | .start4 => Sys2Proof.Machine.execStart4 s
  | .unitHdr f t l d => Sys2Proof.Machine.execUnitHdr f t l d s
  | .fuHdr u d sb eb o => Sys2Proof.Machine.execFuHdr u d sb eb o s

end Sys2Proof.Machine
end

