-- ==== Sys2Proof/Machine/Port.lean ====
section
/-! DEFINITION. What one step does: the host's next transaction, if it has one, or the block's own
step (log entry 6). -/

namespace Sys2Proof.Machine

/-- A command on the port: decoded and executed when BUSY = 0; when BUSY = 1 it is not accepted and
has no effect, it stays or is withdrawn as the host chose, and the block takes its own step (R19). -/
def portStep (c : Command) (hold : Bool) (rest : List HostEvent) (s : State) :
    Host.Outcome State Fault Refusal :=
  if s.busy then blockStep (if hold then s else s.withHost rest)
  else exec (decodeCommand c) (s.withHost rest)

/-- Bytes laid in the buffer: an instruction of the opcode table where they spell a data format, plain
payload else (R66: every byte value in every position is accepted). -/
def streamStep (bytes : List Byte) (s : State) : Host.Outcome State Fault Refusal :=
  match decodeStream bytes with
  | .ok i => exec i s
  | .error _ => hostLay bytes s

/-- One turn: the host's next transaction decides; without one the block takes its own step. -/
def turn (s : State) : Host.Outcome State Fault Refusal :=
  match s.host with
  | [] => blockStep s
  | .wait :: rest => blockStep (s.withHost rest)
  | .command c hold :: rest => portStep c hold rest s
  | .stream bytes :: rest => streamStep bytes (s.withHost rest)
  | .bind bytes :: rest => hostStore [] 0 bytes (s.withHost rest)
  | .store a bytes :: rest => hostStore s.buf a bytes (s.withHost rest)
  | .reset :: rest => .next (resetBlock (s.withHost rest))

end Sys2Proof.Machine
end

