-- ==== Sys2Proof/Machine/Step.lean ====
section
/-! DEFINITION. One step of the machine, and the placing of a table word where the next step takes it. -/

namespace Sys2Proof.Machine

/-- One step of the machine. -/
def step (s : State) : Host.Outcome State Fault Refusal := turn s

/-- The table word placed on the port, so that the next step runs it (log entry 20). -/
def State.withFetchWord (s : State) (nbits w : Nat) : State := placeOnPort (tableEncoded nbits w) s

end Sys2Proof.Machine
end

