-- ==== Sys2Proof/Machine/Response.lean ====
section
/-! DEFINITION. The response port (spec/10_state.md R15, R17, R18): what the host reads. The host may
read STATUS, RESULT and the result registers at any time; a result register that no completed
operation has written since reset has no defined value (R17, R27), and the port shows none. -/

namespace Sys2Proof.Machine

/-- The result registers by name (R17). -/
inductive ResultReg where
  | rpos | skip | fout | tout | lout | dout | eb0 | eb1 | key
deriving DecidableEq, Repr

/-- STATUS, readable at any time (R18). -/
def readStatus (s : State) : BitVec 2 := s.status

/-- RESULT, readable at any time (R120, R145). -/
def readResult (s : State) : BitVec 3 := s.result

/-- A result register as the host reads it: its value as a number, none while no operation that
writes it has completed since reset. -/
def readReg (s : State) : ResultReg → Option Nat
  | .rpos => if s.written.scan then some s.res.rpos else none
  | .skip => if s.written.sclen then some s.res.skip.toNat else none
  | .fout => if s.written.hdec then some s.res.fout.toNat else none
  | .tout => if s.written.hdec then some s.res.tout.toNat else none
  | .lout => if s.written.hdec then some s.res.lout.toNat else none
  | .dout => if s.written.hdec then some s.res.dout.toNat else none
  | .eb0 => if s.written.henc then some s.res.eb0.toNat else none
  | .eb1 => if s.written.henc then some s.res.eb1.toNat else none
  | .key => if s.written.iskey then some s.res.key.toNat else none

/-- The packet on the packet port, if one is presented and not yet answered (R23, R26). -/
def presented (s : State) : Option Packet := if s.pk.valid then some (packetView s.pk) else none

end Sys2Proof.Machine
end

