-- ==== Sys2Proof/Machine/Pseudo.lean ====
section
/-! DEFINITION. The pseudo-operations of spec/30_encoding.md R69: host expansions into operations plus
arithmetic done by the host. "The block knows nothing of them." LEN is what the host has bound (the
directive BUF of R68). -/

namespace Sys2Proof.Machine

/-- `SKIPSC pos`: SCLEN at pos. -/
def skipscOp (pos len : Nat) : Instr := .sclen pos len

/-- What the host computes after `SKIPSC pos`: pos + SKIP. -/
def skipscPos (pos : Nat) (s : State) : Nat := pos + s.res.skip.toNat

/-- `NEXTSC`, first operation: SCLEN at the previous RPOS. RPOS is what the register holds: R69 speaks of
a previous RPOS and does not say what holds where no SCAN has completed since reset, and there the
register's value, 0 after reset, is used (DESIGN CHOICE, log entry 26). -/
def nextscLen (len : Nat) (s : State) : Instr := .sclen s.res.rpos len

/-- `NEXTSC`, second operation: SCAN from the previous RPOS + SKIP (RPOS as in `nextscLen`; log entry
26). -/
def nextscScan (len : Nat) (s : State) : Instr := .scan (s.res.rpos + s.res.skip.toNat) len

/-- `TID b0, b1`: HDEC of the two bytes. -/
def tidOp (b0 b1 : Byte) : Instr := .hdec b0 b1

/-- What the host computes after `TID`: DOUT - 1, meaningless when DOUT = 0. -/
def tidValue (s : State) : Option Nat := if s.res.dout = 0 then none else some (s.res.dout.toNat - 1)

/-- `FUHDR type, tid`: HENC 0, FU_TYPE, 0, tid for bytes 0 and 1. -/
def fuhdrOp (fuType : BitVec 6) (tid : Nat) : Instr := .henc 0 fuType.toNat 0 tid

/-- Byte 2 that the host forms for `FUHDR`: S << 7 | E << 6 | (type & 0x3F). -/
def fuhdrByte2 (sb eb : Bool) (t : Nat) : Byte :=
  fuByte2 (BitVec.ofBool sb) (BitVec.ofBool eb) (BitVec.ofNat 6 t)

end Sys2Proof.Machine
end

