-- ==== Sys2Proof/Safety.lean ====
section
/-! DEFINITION. The terms the statements use: what the spec says of a scan result, a skip length and a
zero run without saying how it is computed; what a state of the block in the middle of an operation
looks like (the invariant); and which packets a fragmented unit gives. -/

namespace Sys2Proof.Machine

/-! ### The scanner, declaratively -/

/-- A wholly contained `00 00 01` begins at p (R75, R58). -/
def MatchAt (m : Memory) (len p : Nat) : Prop :=
  p + 2 < len ∧ memRead? m p = some 0#8 ∧ memRead? m (p + 1) = some 0#8 ∧
    memRead? m (p + 2) = some 1#8

/-- A wholly contained `00 00 00 01` begins at p (R56, R82). -/
def Match4At (m : Memory) (len p : Nat) : Prop :=
  p + 3 < len ∧ memRead? m p = some 0#8 ∧ memRead? m (p + 1) = some 0#8 ∧
    memRead? m (p + 2) = some 0#8 ∧ memRead? m (p + 3) = some 1#8

/-- p is what `Scan(pos)` is said to be: the least position at or after pos where a start code begins,
or LEN if there is none (R76). -/
def IsScan (m : Memory) (len pos p : Nat) : Prop :=
  (pos ≤ p ∧ MatchAt m len p ∧ ∀ q, pos ≤ q → q < p → ¬ MatchAt m len q) ∨
  (p = len ∧ ∀ q, pos ≤ q → ¬ MatchAt m len q)

/-- k is what `SkipLen(pos)` is said to be (R82). -/
def IsSkipLen (m : Memory) (len pos : Nat) (k : BitVec 3) : Prop :=
  (k = 4 ∧ Match4At m len pos) ∨ (k = 3 ∧ MatchAt m len pos) ∨
  (k = 0 ∧ ¬ Match4At m len pos ∧ ¬ MatchAt m len pos)

/-- c is where the zero run that begins at a ends: every byte before it is 0x00, and it is LEN or a
byte that is not (R110). -/
def IsRunEnd (m : Memory) (len a c : Nat) : Prop :=
  a ≤ c ∧ c ≤ len ∧ (∀ q, a ≤ q → q < c → memRead? m q = some 0#8) ∧
    (c = len ∨ ∃ b, memRead? m c = some b ∧ b ≠ 0#8)

/-! ### The packets of a fragmented unit -/

/-- The number of fragments, ceil((ULEN - 2) / (MAXSZ - 3)) (R125). -/
def fragmentCount (ulen maxsz : Nat) : Nat := (ulen - 2 + (maxsz - 3) - 1) / (maxsz - 3)

/-- Fragment j of the unit B[cur .. cur + ulen) whose header bytes are b0, b1 (R63, R64, R117, R118,
R125 to R127). -/
def fragmentPacket (s : State) (b0 b1 : Byte) (j : Nat) : Packet :=
  { m := decide (j + 1 = fragmentCount s.work.ulen s.opr.maxsz) && s.work.mark
    ts := s.opr.ts
    fu := some
      { b0 := fuByte0 s.fuType
        b1 := fuByte1 (headerOfBytes b0 b1).d
        b2 := fuByte2 (BitVec.ofBool (decide (j = 0)))
          (BitVec.ofBool (decide (j + 1 = fragmentCount s.work.ulen s.opr.maxsz)))
          (headerOfBytes b0 b1).t }
    off := s.work.cur + 2 + j * (s.opr.maxsz - 3)
    len := if j + 1 = fragmentCount s.work.ulen s.opr.maxsz then
        s.work.ulen - 2 - j * (s.opr.maxsz - 3)
      else s.opr.maxsz - 3
    ctx := s.opr.ctx }

/-- The arguments of PKT as the operand registers hold them. -/
def State.pktArgs (s : State) : PktArgs :=
  { len := s.opr.len, maxsz := s.opr.maxsz, ts := s.opr.ts, ctx := s.opr.ctx,
    fuType := s.fuType }

/-! ### The invariant -/

/-- The packet on the port is this one, with TS and CTX of the operation (R23, R124). -/
def PortHolds (s : State) (m : Bool) (fu : Option FuBytes) (off n : Nat) : Prop :=
  packetView s.pk = { m := m, ts := s.opr.ts, fu := fu, off := off, len := n, ctx := s.opr.ctx }

/-- CUR is the buffer end or a byte that is not 0x00 (R110, R133). -/
def AtUnitStart (s : State) : Prop :=
  s.work.cur = s.opr.len ∨ ∃ b, memRead? s.buf s.work.cur = some b ∧ b ≠ 0#8

/-- What holds of the current unit from phase NEXT on (R110, R111, R130, R131). -/
structure UnitFrame (s : State) : Prop where
  maxsz : 4 ≤ s.opr.maxsz
  start : s.work.r + 3 ≤ s.work.cur
  stop  : s.work.cur ≤ s.work.r1
  unit  : AtUnitStart s
  hit   : s.work.r1 = s.opr.len ∨ MatchAt s.buf s.opr.len s.work.r1
  ulen  : s.work.ulen = s.work.r1 - s.work.cur
  mark  : s.work.mark = decide (s.work.r1 = s.opr.len)

/-- What holds while a unit is being fragmented (R114, R116, R117, R131): the two header bytes of the
unit stand in the buffer and FU0 to FU2 carry what they give (R63, R64). -/
structure FragFrame (s : State) : Prop where
  base : UnitFrame s
  big  : s.opr.maxsz < s.work.ulen
  flen : s.work.flen + 3 = s.opr.maxsz
  from2 : s.work.cur + 2 ≤ s.work.off
  tail : s.work.off + s.work.rem = s.work.r1
  left : 1 ≤ s.work.rem
  head : ∃ b0 b1, memRead? s.buf s.work.cur = some b0 ∧
    memRead? s.buf (s.work.cur + 1) = some b1 ∧
    s.work.fu0 = fuByte0 s.fuType ∧ s.work.fu1 = fuByte1 (headerOfBytes b0 b1).d ∧
    s.work.fu2.setWidth 6 = (headerOfBytes b0 b1).t

/-- What holds in each phase (R109 to R120). -/
def PhaseFrame (s : State) : Prop :=
  match s.ph with
  | .idle => True
  | .finish => True
  | .first => 4 ≤ s.opr.maxsz
  | .skip => 4 ≤ s.opr.maxsz ∧ MatchAt s.buf s.opr.len s.work.r
  | .next => 4 ≤ s.opr.maxsz ∧ s.work.r + 3 ≤ s.work.cur ∧
      s.work.cur ≤ s.opr.len ∧ AtUnitStart s
  | .single => UnitFrame s ∧ s.work.ulen ≤ s.opr.maxsz ∧
      (s.pk.valid = true → PortHolds s s.work.mark none s.work.cur s.work.ulen)
  | .fragInit => UnitFrame s ∧ s.opr.maxsz < s.work.ulen
  | .fragLoop => FragFrame s ∧ endBit s.work.fu2 = false ∧
      startBit s.work.fu2 = decide (s.work.off = s.work.cur + 2) ∧
      (s.pk.valid = true → s.work.flen < s.work.rem ∧
        PortHolds s false (some s.work.fuBytes) s.work.off s.work.flen)
  | .fragLast => FragFrame s ∧ s.work.rem ≤ s.work.flen ∧
      startBit s.work.fu2 = false ∧ s.work.cur + 2 < s.work.off ∧
      endBit s.work.fu2 = s.pk.valid ∧
      (s.pk.valid = true →
        PortHolds s s.work.mark (some s.work.fuBytes) s.work.off s.work.rem)
  | .adv => UnitFrame s

/-- Every register whose width is a parameter of R5 holds a value of that width: "Every value computed
... fits in AW bits" (R131), and every operand, context and answer fits its own (R16, R17, R21, R23). -/
structure RegistersFit (s : State) : Prop where
  pos   : s.opr.pos < 2 ^ s.widths.aw
  len   : s.opr.len < 2 ^ s.widths.aw
  maxsz : s.opr.maxsz < 2 ^ s.widths.aw
  ctx   : s.opr.ctx < 2 ^ s.widths.ctxw
  tin   : s.opr.tin < 2 ^ s.widths.tw
  din   : s.opr.din < 2 ^ s.widths.tw
  rpos  : s.res.rpos < 2 ^ s.widths.aw
  r     : s.work.r < 2 ^ s.widths.aw
  cur   : s.work.cur < 2 ^ s.widths.aw
  r1    : s.work.r1 < 2 ^ s.widths.aw
  ulen  : s.work.ulen < 2 ^ s.widths.aw
  flen  : s.work.flen < 2 ^ s.widths.aw
  off   : s.work.off < 2 ^ s.widths.aw
  rem   : s.work.rem < 2 ^ s.widths.aw
  pkOff : s.pk.off < 2 ^ s.widths.aw
  pkLen : s.pk.len < 2 ^ s.widths.aw
  pkCtx : s.pk.ctx < 2 ^ s.widths.ctxw
  pkS   : s.pk.s < 2 ^ s.widths.sinkw

/-- The invariant of the machine: it holds at reset and every step keeps it. -/
structure Inv (s : State) : Prop where
  /-- BUF is in its canonical form, inside the address space (R6, R35). -/
  mem   : Memory.wf s.widths.maxLen s.buf = true
  /-- Every register whose width is a parameter fits it (R5, R131). -/
  fits  : RegistersFit s
  /-- PH holds IDLE exactly when BUSY = 0 (R22, R18). -/
  busy  : s.busy = decide (s.ph ≠ .idle)
  /-- BUSY and DONE are never both 1 (R18). -/
  excl  : ¬ (s.busy = true ∧ s.done = true)
  /-- A packet is presented only in phases SINGLE, FRAG_LOOP and FRAG_LAST (R26). -/
  port  : s.pk.valid = true → s.ph = .single ∨ s.ph = .fragLoop ∨ s.ph = .fragLast
  /-- RESULT.DEC is never set (R115). -/
  dec   : s.decErr = false
  /-- RESULT.PARAM excludes the others (R143) and is seen only when the operation ends (R108). -/
  param : s.paramErr = true → s.sinkErr = false ∧ (s.ph = .idle ∨ s.ph = .finish)
  /-- What the phase itself says. -/
  phase : PhaseFrame s

/-! ### Result registers and the sink -/

/-- The result registers an operation writes (R17). -/
def ownRegs : Instr → List ResultReg
  | .scan _ _ => [.rpos]
  | .sclen _ _ => [.skip]
  | .hdec _ _ => [.fout, .tout, .lout, .dout]
  | .henc _ _ _ _ => [.eb0, .eb1]
  | .iskey _ => [.key]
  | .pkt _ _ _ _ => []
  | .reserved6 => []
  | .reserved7 => []
  | .start3 => []
  | .start4 => []
  | .unitHdr _ _ _ _ => []
  | .fuHdr _ _ _ _ _ => []

/-- Whether a term is one of the eight commands of R53. -/
def isCommand (i : Instr) : Bool :=
  match encode i with
  | .command _ => true
  | .stream _ => false

/-- The next transaction of the host is not a reset. -/
def noReset (s : State) : Bool :=
  match s.host with
  | .reset :: _ => false
  | _ => true

/-- In this turn the block takes its own step, and b is the state it takes it in: without a
transaction of the host, under a wait, or under a command that is not accepted because BUSY = 1, which
stays pending or is withdrawn as the host chose (R19; log entries 6 and 21). -/
def TakesOwnStep (s b : State) : Prop :=
  match s.host with
  | [] => b = s
  | .wait :: rest => b = s.withHost rest
  | .command _ hold :: rest => s.busy = true ∧ b = if hold then s else s.withHost rest
  | .stream _ :: _ => False
  | .bind _ :: _ => False
  | .store _ _ :: _ => False
  | .reset :: _ => False

/-- A transaction that leaves a busy block to its own step: a wait or a command. -/
def HostEvent.quiet : HostEvent → Bool
  | .wait => true
  | .command _ _ => true
  | .stream _ => false
  | .bind _ => false
  | .store _ _ => false
  | .reset => false

/-- The host does nothing but wait and present commands: it keeps the buffer and does not reset
(the host's duties of spec/70_reset_and_hazards.md section 2). -/
def quietHost (s : State) : Bool := s.host.all HostEvent.quiet

/-! ### The read footprints (R39) -/

/-- The footprint of SCAN: empty when LEN < 3 or POS > LEN - 3. -/
def scanFootprint (len pos a : Nat) : Prop := pos + 3 ≤ len ∧ pos ≤ a ∧ a < len

/-- The footprint of SCLEN: empty when POS + 3 > LEN. -/
def sclenFootprint (len pos a : Nat) : Prop := pos + 3 ≤ len ∧ pos ≤ a ∧ a < pos + 4 ∧ a < len

/-- The footprint of PKT: empty when RESULT.PARAM is raised. -/
def pktFootprint (p : PktArgs) (a : Nat) : Prop := 4 ≤ p.maxsz ∧ a < p.len

/-- What of a state cannot depend on the values of the sink's answers: everything but RESULT.SINK,
PK_S and the answers themselves (R122). -/
def blindView (s : State) : State :=
  { s with
    result := s.result &&& 6#3
    pk := { s.pk with s := 0 }
    sink := { answers := s.sink.answers.map fun _ => 0
              received := s.sink.received.map fun p => (p.1, 0) } }

end Sys2Proof.Machine
end

