-- ==== Sys2Proof/Certificates/Slice0/Obligations.lean ====
section
/-! DEFINITION. The statements for the provers, from the numbered rules of spec/. Each docstring names
the rule; where a clause rests on a choice of the model it names the log entry. -/

open Sys2Proof Sys2Proof.Machine

/-! ### Encodings -/

/-- Decode and encode agree: every well-formed term, with every operand at every value of its width,
is read back from its encoding (R53, R54, R56, R60, R63; the order START3 before FU_HDR is log entry
10). -/
def Obligations.DecodeInvertsEncode : Prop :=
  ∀ (w : Widths) (i : Instr), i.wellFormed w = true → decode (encode i) = .ok i

/-- The other direction for data formats: bytes that decode are the bytes of what they decode to, so
no bit of them is dropped, and they are at most four (R56, R60, R63). -/
def Obligations.EncodeInvertsStreamDecode : Prop :=
  ∀ (bytes : List Byte) (i : Instr), decodeStream bytes = .ok i →
    encode i = .stream bytes ∧ isCommand i = false ∧ 2 ≤ bytes.length ∧ bytes.length ≤ 4

/-- The format of a command is determined by op alone and the fields a format does not list are
ignored (R53, R54, R55). -/
def Obligations.CommandFormatIsFixedByOp : Prop :=
  ∀ c : Command,
    (c.op = 0 → decodeCommand c = .scan c.pos c.len) ∧
    (c.op = 1 → decodeCommand c = .sclen c.pos c.len) ∧
    (c.op = 2 → decodeCommand c = .hdec c.hb0 c.hb1) ∧
    (c.op = 3 → decodeCommand c = .henc c.fin c.tin c.lin c.din) ∧
    (c.op = 4 → decodeCommand c = .iskey c.tin) ∧
    (c.op = 5 → decodeCommand c = .pkt c.len c.maxsz c.ts c.ctx) ∧
    (c.op = 6 → decodeCommand c = .reserved6) ∧
    (c.op = 7 → decodeCommand c = .reserved7)

/-- Words written out from the spec's encodings decode to what they stand for: the op codes of R53,
the start codes of R56, the headers `26 01`, `2B 0F` (R60) and `62 01 93` (R63). That a table word of
up to 8 bits is a command whose other fields are 0, and a longer one its bytes with the most
significant first, is the MODEL'S READING of the table (log entry 10), not the spec's. -/
def Obligations.SpecWordsDecode : Prop :=
  decodeTableWord 8 0 = some (.scan 0 0) ∧ decodeTableWord 8 1 = some (.sclen 0 0) ∧
  decodeTableWord 8 2 = some (.hdec 0 0) ∧ decodeTableWord 8 3 = some (.henc 0 0 0 0) ∧
  decodeTableWord 8 4 = some (.iskey 0) ∧ decodeTableWord 8 5 = some (.pkt 0 0 0 0) ∧
  decodeTableWord 8 6 = some .reserved6 ∧ decodeTableWord 8 7 = some .reserved7 ∧
  decodeTableWord 24 1 = some .start3 ∧ decodeTableWord 32 1 = some .start4 ∧
  decode (.stream [0x26#8, 0x01#8]) = .ok (.unitHdr 0 19 0 1) ∧
  decode (.stream [0x2B#8, 0x0F#8]) = .ok (.unitHdr 0 21 33 7) ∧
  decode (.stream [0x62#8, 0x01#8, 0x93#8]) = .ok (.fuHdr 49 1 1 0 19)

/-- The bit positions of the unit header, as one 16-bit value H = {byte 0, byte 1}: F = H[15],
unit_type = H[14:9], layer_id = H[8:3], temporal_id_plus1 = H[2:0] (R60). -/
def Obligations.UnitHeaderBitPositions : Prop :=
  ∀ b0 b1 : Byte, ∀ H : Nat, H = b0.toNat * 256 + b1.toNat →
    (hdecFn b0 b1).f.toNat = H / 32768 ∧ (hdecFn b0 b1).t.toNat = H / 512 % 64 ∧
    (hdecFn b0 b1).l.toNat = H / 8 % 64 ∧ (hdecFn b0 b1).d.toNat = H % 8

/-- Round trip of the codec on all 65 536 byte pairs (R96). -/
def Obligations.HencInvertsHdec : Prop :=
  ∀ b0 b1 : Byte,
    hencFn (hdecFn b0 b1).f (hdecFn b0 b1).t.toNat (hdecFn b0 b1).l (hdecFn b0 b1).d.toNat = (b0, b1)

/-- The other direction: decoding what was encoded gives F and layer back and t, d masked to their
field widths; it is the identity exactly when t ≤ 63 and d ≤ 7 (R97). -/
def Obligations.HdecInvertsHencUpToMasks : Prop :=
  ∀ (f : BitVec 1) (t : Nat) (l : BitVec 6) (d : Nat) (h : UnitHeader),
    h = hdecFn (hencFn f t l d).1 (hencFn f t l d).2 →
    h.f = f ∧ h.t.toNat = t % 64 ∧ h.l = l ∧ h.d.toNat = d % 8 ∧
    ((h.t.toNat = t ∧ h.d.toNat = d) ↔ (t ≤ 63 ∧ d ≤ 7))

/-- The header bytes PKT builds for a unit with header bytes b0, b1 are the FU_HDR format with the
type FU_TYPE, the unit's temporal id, S = 1, E = 0 and the unit's own type; clearing S and setting E
give the two other forms (R63, R64). -/
def Obligations.PktHeadersAreFuHdr : Prop :=
  ∀ (u : BitVec 6) (b0 b1 : Byte) (h : UnitHeader) (x : FuBytes),
    h = headerOfBytes b0 b1 → x = firstFuBytes u b0 b1 →
    [x.b0, x.b1, x.b2] = fuHdrBytes u h.d 1 0 h.t ∧
    [x.b0, x.b1, fu2ClearStart x.b2] = fuHdrBytes u h.d 0 0 h.t ∧
    [x.b0, x.b1, fu2SetEnd (fu2ClearStart x.b2)] = fuHdrBytes u h.d 0 1 h.t

/-! ### The command port and the step -/

/-- A step runs the decoded instruction: a command on the port while BUSY = 0, and bytes laid in the
buffer that spell a data format, are executed by exec with that transaction taken off the host's list
(R19; log entries 6, 9). -/
def Obligations.StepRunsDecodedInstruction : Prop :=
  (∀ (s : State) (c : Command) (hold : Bool) (rest : List HostEvent) (i : Instr),
    s.host = .command c hold :: rest → s.busy = false → decode (.command c) = .ok i →
    step s = exec i (s.withHost rest)) ∧
  (∀ (s : State) (bytes : List Byte) (rest : List HostEvent) (i : Instr),
    s.host = .stream bytes :: rest → decode (.stream bytes) = .ok i →
    step s = exec i (s.withHost rest))

/-- A table word placed by withFetchWord is run by the very next step, as the instruction the decoder
reads from it; from a state with BUSY = 0, PH = IDLE and no packet, nothing else is changed (log
entries 10, 20). -/
def Obligations.PlacedTableWordRunsNext : Prop :=
  ∀ (s : State) (nbits w : Nat) (i : Instr), decodeTableWord nbits w = some i →
    s.status = statusWord false s.done → s.ph = .idle → s.pk.valid = false →
    step (s.withFetchWord nbits w) = exec i s

/-- A command presented while BUSY = 1 is not accepted and has no effect: exec leaves the state, the
command stays pending or is withdrawn as the host chose (R19). That the block takes its own step in the
same turn is the MODEL'S CHOICE (log entry 21). -/
def Obligations.BusyBlockAcceptsNoCommand : Prop :=
  ∀ (s : State), s.busy = true →
    (∀ i : Instr, isCommand i = true → exec i s = .next s) ∧
    (∀ (c : Command) (rest : List HostEvent), s.host = .command c true :: rest →
      step s = blockStep s) ∧
    (∀ (c : Command) (rest : List HostEvent), s.host = .command c false :: rest →
      step s = blockStep (s.withHost rest))

/-! ### The operations: each completes, with this result and nothing else changed -/

/-- SCAN (R77, R76, R86): on a buffer that is bound up to LEN, RPOS is the least position at or after
POS where a start code begins, or LEN; the two operands and OP load, RESULT = 0, DONE; nothing else
changes. POS may exceed LEN. -/
def Obligations.ScanFindsLeastStartCode : Prop :=
  ∀ (pos len : Nat) (s : State), (Instr.scan pos len).wellFormed s.widths = true →
    s.busy = false → s.buf.boundTo len →
    ∃ p : Nat, IsScan s.buf len pos p ∧ p ≤ len ∧
      exec (.scan pos len) s = .next
        { s with
          opr := { s.opr with op := 0, pos := pos, len := len }
          res := { s.res with rpos := p }
          written := { s.written with scan := true }
          status := 2, result := 0, ph := .idle }

/-- SCLEN (R83, R82, R86): on a buffer bound up to LEN, SKIP is 4, 3 or 0 as the bytes at POS say;
nothing else changes but OP, POS, LEN, STATUS and RESULT. -/
def Obligations.SclenReportsStartCodeLength : Prop :=
  ∀ (pos len : Nat) (s : State), (Instr.sclen pos len).wellFormed s.widths = true →
    s.busy = false → s.buf.boundTo len →
    ∃ k : BitVec 3, IsSkipLen s.buf len pos k ∧
      exec (.sclen pos len) s = .next
        { s with
          opr := { s.opr with op := 1, pos := pos, len := len }
          res := { s.res with skip := k }
          written := { s.written with sclen := true }
          status := 2, result := 0, ph := .idle }

/-- HDEC (R92, R91): the four fields by the arithmetic of R91; nothing else changes but OP, HB0, HB1,
STATUS and RESULT. -/
def Obligations.HdecWritesTheFourFields : Prop :=
  ∀ (b0 b1 : Byte) (s : State), s.busy = false →
    exec (.hdec b0 b1) s = .next
      { s with
        opr := { s.opr with op := 2, hb0 := b0, hb1 := b1 }
        res := { s.res with
          fout := BitVec.ofNat 1 (b0.toNat / 128)
          tout := BitVec.ofNat 6 (b0.toNat / 2 % 64)
          lout := BitVec.ofNat 6 (b0.toNat % 2 * 32 + b1.toNat / 8)
          dout := BitVec.ofNat 3 (b1.toNat % 8) }
        written := { s.written with hdec := true }
        status := 2, result := 0, ph := .idle }

/-- HENC (R95, R94): the two bytes by the arithmetic of R94, TIN and DIN masked; nothing else changes
but OP, the four operands, STATUS and RESULT. -/
def Obligations.HencWritesTheTwoBytes : Prop :=
  ∀ (f : BitVec 1) (t : Nat) (l : BitVec 6) (d : Nat) (s : State),
    (Instr.henc f t l d).wellFormed s.widths = true → s.busy = false →
    exec (.henc f t l d) s = .next
      { s with
        opr := { s.opr with op := 3, fin := f, tin := t, lin := l, din := d }
        res := { s.res with
          eb0 := BitVec.ofNat 8 (f.toNat * 128 + t % 64 * 2 + l.toNat / 32)
          eb1 := BitVec.ofNat 8 (l.toNat % 32 * 8 + d % 8) }
        written := { s.written with henc := true }
        status := 2, result := 0, ph := .idle }

/-- ISKEY (R102, R101): KEY = 1 exactly for the six values 16 to 21 of the whole unmasked TIN; nothing
else changes but OP, TIN, STATUS and RESULT. -/
def Obligations.IskeyIsTheRange16To21 : Prop :=
  ∀ (t : Nat) (s : State), (Instr.iskey t).wellFormed s.widths = true → s.busy = false →
    exec (.iskey t) s = .next
      { s with
        opr := { s.opr with op := 4, tin := t }
        res := { s.res with
          key := t == 16 || t == 17 || t == 18 || t == 19 || t == 20 || t == 21 }
        written := { s.written with iskey := true }
        status := 2, result := 0, ph := .idle }

/-- A reserved op, 6 or 7, is accepted like any other command and completes in the same step with
RESULT.PARAM = 1, no buffer read, no packet, no result register written (R55, R141). -/
def Obligations.ReservedOpRaisesParam : Prop :=
  ∀ s : State, s.busy = false →
    exec .reserved6 s = .next
      { s with opr := { s.opr with op := 6 }, status := 2, result := 4, ph := .idle } ∧
    exec .reserved7 s = .next
      { s with opr := { s.opr with op := 7 }, status := 2, result := 4, ph := .idle }

/-- PKT is accepted: operands load, RESULT <- 0, DONE <- 0, BUSY <- 1, and PH is FIRST; with MAXSZ < 4
RESULT.PARAM <- 1 and PH is FINISH instead, no byte read, no packet presented (R107, R108). -/
def Obligations.PktIsAcceptedAndChecked : Prop :=
  ∀ (len maxsz : Nat) (ts : Stamp) (ctx : Nat) (s : State),
    (Instr.pkt len maxsz ts ctx).wellFormed s.widths = true → s.busy = false →
    exec (.pkt len maxsz ts ctx) s = .next
      { s with
        opr := { s.opr with op := 5, len := len, maxsz := maxsz, ts := ts, ctx := ctx }
        status := 1
        result := if maxsz ≤ 3 then 4 else 0
        ph := if maxsz ≤ 3 then .finish else .first }

/-- A PKT with MAXSZ < 4 completes in the block's first step after its acceptance, under any host that
waits or presents commands (log entries 6, 21), with RESULT = 4 and the packet port, the sink and the buffer untouched
(R108, R120, R141). -/
def Obligations.PktWithSmallMaxszEndsAtOnce : Prop :=
  ∀ (len maxsz : Nat) (ts : Stamp) (ctx : Nat) (s : State), s.busy = false → maxsz ≤ 3 →
    ∃ t : State, exec (.pkt len maxsz ts ctx) s = .next t ∧ t.host = s.host ∧
      (∀ b : State, TakesOwnStep t b → step t = .next { b with status := 2, ph := .idle }) ∧
      t.result = 4 ∧ t.res = s.res ∧ t.pk = s.pk ∧ t.sink = s.sink ∧ t.buf = s.buf ∧
      t.work = s.work

/-- The data-format rows, MODEL'S CHOICE (log entry 9: no op selects them; the host lays their bytes in
its buffer): each completes when BUSY = 0 and there is room, its bytes stand after the last byte
bound, in the order of R56, R60 and R63, every other byte and everything else is unchanged. -/
def Obligations.DataFormatsAreLaidInTheBuffer : Prop :=
  ∀ (i : Instr) (bytes : List Byte) (s : State), encode i = .stream bytes → s.busy = false →
    memTop s.buf + bytes.length ≤ s.widths.maxLen →
    ∃ m : Memory, exec i s = .next { s with buf := m } ∧
      (∀ a, a < memTop s.buf → memRead? m a = memRead? s.buf a) ∧
      (∀ a, memTop s.buf + bytes.length ≤ a → memRead? m a = memRead? s.buf a) ∧
      (∀ k, k < bytes.length → memRead? m (memTop s.buf + k) = bytes[k]?)

/-- A host that stores in the buffer while an operation is in progress is refused, by exec of a data
format and by the step for every way of storing: MODEL'S CHOICE of the treatment `refuse` that the
spec proposes (U8; log entry 8). -/
def Obligations.BufferChangeWhileBusyIsRefused : Prop :=
  ∀ s : State, s.busy = true →
    (∀ i : Instr, isCommand i = false → exec i s = .refused .bufferInUse) ∧
    (∀ bytes rest, s.host = .stream bytes :: rest → step s = .refused .bufferInUse) ∧
    (∀ bytes rest, s.host = .bind bytes :: rest → step s = .refused .bufferInUse) ∧
    (∀ a bytes rest, s.host = .store a bytes :: rest → step s = .refused .bufferInUse)

/-! ### The phases of PKT

Each over every turn in which the block takes its own step (`TakesOwnStep s b`): no transaction of the
host, a wait, or a command that is not accepted. That such a command and the block's step share a turn
is the model's choice (log entry 21). -/

/-- FIRST (R109): R is the position of the first start code of the buffer, or LEN; PH goes to SKIP
or, with none, to FINISH. It holds in every turn in which the block takes its own step; which
turns these are is log entries 6 and 21. -/
def Obligations.PhaseFirstLocatesFirstStartCode : Prop :=
  ∀ s b : State, TakesOwnStep s b → b.ph = .first → b.buf.boundTo b.opr.len →
    ∃ p : Nat, IsScan b.buf b.opr.len 0 p ∧ p ≤ b.opr.len ∧
      step s = .next
        { b with
          work := { b.work with r := p }
          ph := if p < b.opr.len then .skip else .finish }

/-- SKIP (R110): CUR is where the zero run after the 3-byte core ends, bounded by the buffer end.
It holds in every turn in which the block takes its own step; which turns these are is log entries
6 and 21. -/
def Obligations.PhaseSkipPassesTheZeroRun : Prop :=
  ∀ s b : State, TakesOwnStep s b → b.ph = .skip → b.buf.boundTo b.opr.len →
    b.work.r + 3 ≤ b.opr.len →
    ∃ c : Nat, IsRunEnd b.buf b.opr.len (b.work.r + 3) c ∧
      step s = .next { b with work := { b.work with cur := c }, ph := .next }

/-- NEXT (R111): R1 is the next start code at or after CUR, or LEN; MARK says it is LEN; ULEN is
R1 - CUR; PH goes to SINGLE if ULEN ≤ MAXSZ, else to FRAG_INIT. It holds in every turn in which
the block takes its own step; which turns these are is log entries 6 and 21. -/
def Obligations.PhaseNextDelimitsTheUnit : Prop :=
  ∀ s b : State, TakesOwnStep s b → b.ph = .next → b.buf.boundTo b.opr.len →
    b.work.cur ≤ b.opr.len →
    ∃ p : Nat, IsScan b.buf b.opr.len b.work.cur p ∧ b.work.cur ≤ p ∧ p ≤ b.opr.len ∧
      step s = .next
        { b with
          work := { b.work with
            r1 := p, mark := decide (p = b.opr.len), ulen := p - b.work.cur }
          ph := if p - b.work.cur ≤ b.opr.maxsz then .single else .fragInit }

/-- SINGLE (R112, R121, R122): first the packet (MARK, no fragmentation header, CUR, ULEN, TS,
CTX) is presented and nothing else changes; then the sink's answer is consumed, the packet
withdrawn, the answer joined into RESULT.SINK, and PH goes to ADV. That PK_S holds its value until
the next answer is the MODEL'S CHOICE (log entry 16). That every answer other than 0 raises
RESULT.SINK where SINK_W is above 1 is the MODEL'S READING (log entry 24); at one bit it is the
rule. It holds in every turn in which the block takes its own step; which turns these are is log
entries 6 and 21. -/
def Obligations.PhaseSingleEmitsTheWholeUnit : Prop :=
  ∀ s b : State, TakesOwnStep s b → b.ph = .single →
    (b.pk.valid = false → ∃ q : PacketPort,
      step s = .next { b with pk := q } ∧ q.valid = true ∧ q.s = b.pk.s ∧
      packetView q =
        { m := b.work.mark, ts := b.opr.ts, fu := none, off := b.work.cur, len := b.work.ulen,
          ctx := b.opr.ctx }) ∧
    (∀ a rest, b.pk.valid = true → b.sink.answers = a :: rest →
      step s = .next
        { b with
          ph := .adv
          result := b.result ||| (if b.widths.answer a = 0 then 0 else 1)
          pk := { b.pk with valid := false, s := b.widths.answer a }
          sink := { answers := rest
                    received := b.sink.received ++ [(packetView b.pk, b.widths.answer a)] } })

/-- FRAG_INIT (R114, R116): with two header bytes b0, b1 at CUR, FLEN = MAXSZ - 3, FU0 and FU1 are
the unit header with F = 0, type FU_TYPE, layer 0 and the unit's temporal id, FU2 = 0x80 | type,
OFF = CUR + 2, REM = ULEN - 2, PH goes to FRAG_LOOP. It holds in every turn in which the block
takes its own step; which turns these are is log entries 6 and 21. -/
def Obligations.PhaseFragInitBuildsTheHeader : Prop :=
  ∀ (s b : State) (b0 b1 : Byte), TakesOwnStep s b → b.ph = .fragInit → 2 ≤ b.work.ulen →
    b.work.cur + 2 ≤ b.opr.len → b.byteAt b.work.cur = some b0 →
    b.byteAt (b.work.cur + 1) = some b1 →
    step s = .next
      { b with
        work := { b.work with
          flen := b.opr.maxsz - 3
          fu0 := BitVec.ofNat 8 (b.fuType.toNat * 2)
          fu1 := BitVec.ofNat 8 (b1.toNat % 8)
          fu2 := BitVec.ofNat 8 (128 + b0.toNat / 2 % 64)
          off := b.work.cur + 2
          rem := b.work.ulen - 2 }
        ph := .fragLoop }

/-- The Malformed-Unit check (R115, R138), in every state that reaches FRAG_INIT with ULEN < 2,
though no run does: RESULT.DEC <- 1, PH goes to ADV, no packet of the unit is presented, no byte
read. It holds in every turn in which the block takes its own step; which turns these are is log
entries 6 and 21. -/
def Obligations.ShortUnitRaisesDecAndIsDropped : Prop :=
  ∀ s b : State, TakesOwnStep s b → b.ph = .fragInit → b.work.ulen < 2 →
    step s = .next
      { b with
        result := b.result ||| 2
        work := { b.work with flen := b.opr.maxsz - 3 }
        ph := .adv }

/-- FRAG_LOOP (R117, R121, R122): with REM > FLEN a packet (marker 0, FU0..FU2, OFF, FLEN) is
presented; its answer is joined into RESULT.SINK, OFF and REM move by FLEN and the Start bit is
cleared; with REM ≤ FLEN only PH changes, to FRAG_LAST. That PK_S holds its value until the next
answer is the MODEL'S CHOICE (log entry 16). That every answer other than 0 raises RESULT.SINK
where SINK_W is above 1 is the MODEL'S READING (log entry 24); at one bit it is the rule. It holds
in every turn in which the block takes its own step; which turns these are is log entries 6 and
21. -/
def Obligations.PhaseFragLoopEmitsNonFinalFragments : Prop :=
  ∀ s b : State, TakesOwnStep s b → b.ph = .fragLoop →
    (b.pk.valid = false → b.work.flen < b.work.rem → ∃ q : PacketPort,
      step s = .next { b with pk := q } ∧ q.valid = true ∧ q.s = b.pk.s ∧
      packetView q =
        { m := false, ts := b.opr.ts, fu := some ⟨b.work.fu0, b.work.fu1, b.work.fu2⟩,
          off := b.work.off, len := b.work.flen, ctx := b.opr.ctx }) ∧
    (b.pk.valid = false → b.work.rem ≤ b.work.flen →
      step s = .next { b with ph := .fragLast }) ∧
    (∀ a rest, b.pk.valid = true → b.sink.answers = a :: rest →
      step s = .next
        { b with
          result := b.result ||| (if b.widths.answer a = 0 then 0 else 1)
          work := { b.work with
            off := b.work.off + b.work.flen
            rem := b.work.rem - b.work.flen
            fu2 := b.work.fu2 &&& 0x7F }
          pk := { b.pk with valid := false, s := b.widths.answer a }
          sink := { answers := rest
                    received := b.sink.received ++ [(packetView b.pk, b.widths.answer a)] } })

/-- FRAG_LAST (R118, R121, R122): the End bit is set and the packet (MARK, FU0..FU2, OFF, REM) is
presented; its answer is joined into RESULT.SINK and PH goes to ADV. That PK_S holds its value
until the next answer is the MODEL'S CHOICE (log entry 16). That every answer other than 0 raises
RESULT.SINK where SINK_W is above 1 is the MODEL'S READING (log entry 24); at one bit it is the
rule. It holds in every turn in which the block takes its own step; which turns these are is log
entries 6 and 21. -/
def Obligations.PhaseFragLastEmitsTheFinalFragment : Prop :=
  ∀ s b : State, TakesOwnStep s b → b.ph = .fragLast →
    (b.pk.valid = false → ∃ q : PacketPort,
      step s = .next { b with pk := q, work := { b.work with fu2 := b.work.fu2 ||| 0x40 } } ∧
      q.valid = true ∧ q.s = b.pk.s ∧
      packetView q =
        { m := b.work.mark, ts := b.opr.ts,
          fu := some ⟨b.work.fu0, b.work.fu1, b.work.fu2 ||| 0x40⟩,
          off := b.work.off, len := b.work.rem, ctx := b.opr.ctx }) ∧
    (∀ a rest, b.pk.valid = true → b.sink.answers = a :: rest →
      step s = .next
        { b with
          ph := .adv
          result := b.result ||| (if b.widths.answer a = 0 then 0 else 1)
          pk := { b.pk with valid := false, s := b.widths.answer a }
          sink := { answers := rest
                    received := b.sink.received ++ [(packetView b.pk, b.widths.answer a)] } })

/-- ADV and FINISH (R119, R120): R <- R1 and PH goes to SKIP if a unit is left, else to FINISH;
FINISH completes: BUSY <- 0, DONE <- 1, PH <- IDLE, RESULT kept. It holds in every turn in which
the block takes its own step; which turns these are is log entries 6 and 21. -/
def Obligations.AdvAndFinishEndTheUnitAndTheOperation : Prop :=
  ∀ s b : State, TakesOwnStep s b →
    (b.ph = .adv → step s = .next
      { b with
        work := { b.work with r := b.work.r1 }
        ph := if b.work.r1 < b.opr.len then .skip else .finish }) ∧
    (b.ph = .finish → step s = .next { b with status := 2, ph := .idle })

/-- A sink that does not answer stalls the block: with a packet presented and no answer, no step moves
on, in SINGLE, FRAG_LOOP and FRAG_LAST, whether the host does nothing or, while BUSY = 1, waits and
presents commands in any order and number: after every number of steps only the host's list may be
shorter (R166, R19, R147). That the stalled block answers the same state step after step, that no answer
is an empty list, and how the host's transactions share the turns, are the MODEL'S CHOICES (log entries
22, 7, 6 and 21). -/
def Obligations.UnansweredPacketStallsTheBlock : Prop :=
  ∀ s : State, (s.host = [] ∨ (s.busy = true ∧ quietHost s = true)) →
    s.pk.valid = true → s.sink.answers = [] →
    (s.ph = .single ∨ s.ph = .fragLoop ∨ s.ph = .fragLast) →
    ∀ k : Nat, ∃ rest : List HostEvent, rest <:+ s.host ∧ core.run k s = .next (s.withHost rest)

/-- A presented packet is held unchanged until the sink answers, and exactly one answer is
consumed for it: a step that is no reset leaves the packet port and the sink as they are, or takes
the first answer, withdraws the packet and changes no other field of it (R23, R121, R165). That
PK_S stands unchanged while the packet waits and keeps the answer after it is consumed is the
MODEL'S CHOICE (log entry 16). That an answer is taken on its SINK_W bits is the MODEL'S READING
(log entry 24). -/
def Obligations.PresentedPacketIsHeldUntilOneAnswer : Prop :=
  ∀ s t : State, s.pk.valid = true → noReset s = true → step s = .next t →
    (t.pk = s.pk ∧ t.sink = s.sink) ∨
    (∃ a rest, s.sink.answers = a :: rest ∧
      t.pk = { s.pk with valid := false, s := s.widths.answer a } ∧
      t.sink = { answers := rest
                 received := s.sink.received ++ [(packetView s.pk, s.widths.answer a)] })

/-- In IDLE the block waits: without a transaction of the host nothing changes, however many steps are
taken (R158; the waiting step is log entry 22). -/
def Obligations.IdleBlockWaits : Prop :=
  ∀ s : State, s.ph = .idle → s.host = [] → ∀ k : Nat, core.run k s = .next s

/-- The pseudo-operations of R69. `FUHDR type, tid` gives bytes 0 and 1 of the fragmentation
header with the block's FU_TYPE and, by the host's arithmetic, byte 2; `TID b0, b1` gives the
temporal id, the header's temporal_id_plus1 less one, and nothing where that field is 0; `SKIPSC
pos` gives pos plus the length of the start code at pos; `NEXTSC` finds the next start code at or
after the end of the one at RPOS. NEXTSC takes RPOS as the register holds it: what it does where
no SCAN has completed since reset, so that there is no previous RPOS, the spec leaves open, and
the register's value is the MODEL'S CHOICE (log entry 26). -/
def Obligations.PseudoOperationsExpand : Prop :=
  ∀ s : State, s.busy = false →
    (∀ tid : Nat, (fuhdrOp s.fuType tid).wellFormed s.widths = true →
      ∃ t : State, exec (fuhdrOp s.fuType tid) s = .next t ∧
      ∀ (sb eb : Bool) (ty : Nat),
        [t.res.eb0, t.res.eb1, fuhdrByte2 sb eb ty] =
          fuHdrBytes s.fuType (BitVec.ofNat 3 tid) (BitVec.ofBool sb) (BitVec.ofBool eb)
            (BitVec.ofNat 6 ty)) ∧
    (∀ b0 b1 : Byte, ∃ t : State, exec (tidOp b0 b1) s = .next t ∧
      tidValue t = if b1.toNat % 8 = 0 then none else some (b1.toNat % 8 - 1)) ∧
    (∀ pos len : Nat, (skipscOp pos len).wellFormed s.widths = true → s.buf.boundTo len →
      ∃ (t : State) (k : BitVec 3), exec (skipscOp pos len) s = .next t ∧
        IsSkipLen s.buf len pos k ∧ skipscPos pos t = pos + k.toNat) ∧
    (∀ len : Nat, (nextscLen len s).wellFormed s.widths = true → s.buf.boundTo len →
      ∃ (t u : State) (k : BitVec 3), exec (nextscLen len s) s = .next t ∧
        IsSkipLen s.buf len s.res.rpos k ∧ exec (nextscScan len t) t = .next u ∧
        IsScan s.buf len (s.res.rpos + k.toNat) u.res.rpos ∧
        (MatchAt s.buf len s.res.rpos → k = 3))

/-! ### Invariants and what the whole machine keeps -/

/-- The state after reset meets the invariant (R27, R156). -/
def Obligations.ResetMeetsTheInvariant : Prop := Inv State.reset

/-- Every step keeps the invariant, whatever the host does and whatever the sink answers: PH and BUSY
agree, BUSY and DONE exclude each other, a packet is presented only in an emitting phase, DEC is
never set, the buffer stays canonical, the working registers describe a unit of the buffer, and every
register fits its width, whatever the widths are (R5, R18, R22, R26, R109 to R120, R130, R131, R143). -/
def Obligations.EveryStepKeepsTheInvariant : Prop :=
  ∀ s t : State, Inv s → step s = .next t → Inv t

/-- What reset leaves (R27): STATUS = 0, RESULT = 0, PH = IDLE, no packet presented, and the response
port shows no value for any result register. The zeros of the unspecified registers are the model's
(log entry 3) and are not stated. -/
def Obligations.ResetLeavesNoDefinedResult : Prop :=
  readStatus State.reset = 0 ∧ readResult State.reset = 0 ∧ State.reset.ph = .idle ∧
  State.reset.ph.code = 0 ∧ presented State.reset = none ∧
  ∀ r : ResultReg, readReg State.reset r = none

/-- Reset in mid-operation abandons it: STATUS = 0, RESULT = 0, PH = IDLE, the unanswered packet is
withdrawn without an answer being consumed, packets already answered stay delivered, and the host
reads no result register (R157, R156). The buffer, FU_TYPE, the widths and the rest of the host's list
stay: they are no state of the block (R25), which is the MODEL'S READING (log entries 6 and 12). -/
def Obligations.ResetAbandonsTheOperation : Prop :=
  ∀ (s : State) (rest : List HostEvent), s.host = .reset :: rest →
    ∃ t : State, step s = .next t ∧ t.status = 0 ∧ t.result = 0 ∧ t.ph = .idle ∧
      t.pk.valid = false ∧ t.sink = s.sink ∧ t.buf = s.buf ∧ t.host = rest ∧ t.fuType = s.fuType ∧
      t.widths = s.widths ∧ ∀ r : ResultReg, readReg t r = none

/-- No read of the block leaves 0 .. LEN - 1: in a state that meets the invariant no step ends in a
bounds fault (R38). -/
def Obligations.NoReadOutsideTheBuffer : Prop :=
  ∀ s : State, Inv s → ∀ a n len : Nat, step s ≠ .fault (.boundsFault a n len)

/-- Nothing traps and nothing stops: while an operation runs over a buffer that is bound up to LEN
and the host leaves the block alone, waits or presents commands (log entries 6, 21), every step
answers a next state (R137, R38). With a packet presented and no answer to come the spec calls the
block stuck (U11, R166); that its step then answers the same state is the MODEL'S CHOICE (log
entry 22). -/
def Obligations.BusyBlockAlwaysSteps : Prop :=
  ∀ s b : State, Inv s → s.busy = true → TakesOwnStep s b → s.buf.boundTo s.opr.len →
    ∃ t : State, step s = .next t

/-- While an operation is in progress a step that is no reset changes no byte of the buffer, no operand
register, no result register, no parameter (R36, R37, R16, R17, R5). -/
def Obligations.OperationKeepsBufferOperandsAndResults : Prop :=
  ∀ s t : State, s.busy = true → noReset s = true → step s = .next t →
    t.buf = s.buf ∧ t.opr = s.opr ∧ t.res = s.res ∧ t.written = s.written ∧ t.fuType = s.fuType ∧
    t.widths = s.widths

/-- RESULT is sticky within one operation: a bit once set stays set while BUSY = 1 (R20). -/
def Obligations.ResultBitsAreSticky : Prop :=
  ∀ s t : State, s.busy = true → noReset s = true → step s = .next t →
    ∀ k : Nat, s.result.getLsbD k = true → t.result.getLsbD k = true

/-- What the host reads on the response port. STATUS and RESULT at any time, BUSY and DONE in bits 0 and
1, SINK, DEC and PARAM in bits 0, 1 and 2 (R15, R18, R20). After a command completes or is accepted each
result register it owns shows the value that the operation wrote there, and every other register shows
what it showed before (R15, R17). -/
def Obligations.OperationWritesOnlyItsOwnResults : Prop :=
  (∀ s : State,
    readStatus s = s.status ∧ readResult s = s.result ∧
    (readStatus s).getLsbD 0 = s.busy ∧ (readStatus s).getLsbD 1 = s.done ∧
    (readResult s).getLsbD 0 = s.sinkErr ∧ (readResult s).getLsbD 1 = s.decErr ∧
    (readResult s).getLsbD 2 = s.paramErr) ∧
  (∀ (i : Instr) (s t : State), s.busy = false → exec i s = .next t →
    (∀ r : ResultReg, r ∈ ownRegs i → (readReg t r).isSome = true) ∧
    (∀ r : ResultReg, r ∉ ownRegs i → readReg t r = readReg s r) ∧
    (∀ pos len, i = .scan pos len → readReg t .rpos = some t.res.rpos) ∧
    (∀ pos len, i = .sclen pos len → readReg t .skip = some t.res.skip.toNat) ∧
    (∀ b0 b1, i = .hdec b0 b1 →
      readReg t .fout = some t.res.fout.toNat ∧ readReg t .tout = some t.res.tout.toNat ∧
      readReg t .lout = some t.res.lout.toNat ∧ readReg t .dout = some t.res.dout.toNat) ∧
    (∀ f ty l d, i = .henc f ty l d →
      readReg t .eb0 = some t.res.eb0.toNat ∧ readReg t .eb1 = some t.res.eb1.toNat) ∧
    (∀ ty, i = .iskey ty → readReg t .key = some (if t.res.key then 1 else 0)))

/-- The block is stateless across operations (R13). From two states with BUSY = 0, the same buffer
and the same widths, a command gives the same STATUS, RESULT, PH and the same values of its own
result registers, whatever else the states hold. And a PKT taken from two such states with the
same FU_TYPE, the same coming answers, no packet on the port and no transaction of the host goes
through the same STATUS, RESULT, PH and presented packet in every number of steps, up to
completion and on, with the same packets answered alike. That a block without an answer, or one
that has completed, goes on in the same state is the MODEL'S CHOICE (log entry 22). -/
def Obligations.OperationsAreStatelessAcrossCalls : Prop :=
  (∀ (i : Instr) (s s' t : State), isCommand i = true → s.busy = false → s'.busy = false →
    s.buf = s'.buf → s.widths = s'.widths → exec i s = .next t →
    ∃ t' : State, exec i s' = .next t' ∧ t'.status = t.status ∧ t'.result = t.result ∧
      t'.ph = t.ph ∧ ∀ r : ResultReg, r ∈ ownRegs i → readReg t' r = readReg t r) ∧
  (∀ (len maxsz : Nat) (ts : Stamp) (ctx k : Nat) (s s' t u : State),
    s.busy = false → s'.busy = false → s.pk.valid = false → s'.pk.valid = false →
    s.host = [] → s'.host = [] → s.buf = s'.buf → s.widths = s'.widths → s.fuType = s'.fuType →
    s.sink.answers = s'.sink.answers → exec (.pkt len maxsz ts ctx) s = .next t →
    core.run k t = .next u →
    ∃ (t' u' : State) (sent : List (Packet × Nat)),
      exec (.pkt len maxsz ts ctx) s' = .next t' ∧ core.run k t' = .next u' ∧
      u'.status = u.status ∧ u'.result = u.result ∧ u'.ph = u.ph ∧ presented u' = presented u ∧
      u.sink.received = s.sink.received ++ sent ∧ u'.sink.received = s'.sink.received ++ sent)

/-- The host's transactions on its buffer while BUSY = 0. A store: reading an offset stored to gives the
byte stored, reading any other gives what it gave. A bind (the directive BUF of R68): the buffer is
exactly the bytes bound, from offset 0. Bytes that spell no data format: they stand after the last byte
bound, every other byte as before. The canonical form is kept by each (R35, R42; the transactions and
the canonical form are log entries 6 and 4). -/
def Obligations.HostStoreReadsBack : Prop :=
  ∀ (s : State) (bytes : List Byte) (rest : List HostEvent), s.busy = false →
    Memory.wf s.widths.maxLen s.buf = true →
    (∀ a : Nat, s.host = .store a bytes :: rest → a + bytes.length ≤ s.widths.maxLen →
      ∃ m : Memory, step s = .next { s with host := rest, buf := m } ∧
        Memory.wf s.widths.maxLen m = true ∧
        ∀ x : Nat, memRead? m x =
          if a ≤ x ∧ x < a + bytes.length then bytes[x - a]? else memRead? s.buf x) ∧
    (s.host = .bind bytes :: rest → bytes.length ≤ s.widths.maxLen →
      ∃ m : Memory, step s = .next { s with host := rest, buf := m } ∧
        Memory.wf s.widths.maxLen m = true ∧ ∀ x : Nat, memRead? m x = bytes[x]?) ∧
    (s.host = .stream bytes :: rest → decodeStream bytes = .error .noFormat →
      memTop s.buf + bytes.length ≤ s.widths.maxLen →
      ∃ m : Memory, step s = .next { s with host := rest, buf := m } ∧
        Memory.wf s.widths.maxLen m = true ∧
        ∀ x : Nat, memRead? m x =
          if memTop s.buf ≤ x ∧ x < memTop s.buf + bytes.length then bytes[x - memTop s.buf]?
          else memRead? s.buf x)

/-! ### The packets -/

/-- Every packet that a step presents has size 3 × PK_FUV + PK_LEN ≤ MAXSZ, exactly MAXSZ for a
non-final fragment (R128), and lies inside the current unit and the buffer (R129). -/
def Obligations.PresentedPacketFitsAndLiesInItsUnit : Prop :=
  ∀ s t : State, Inv s → s.pk.valid = false → step s = .next t → t.pk.valid = true →
    (packetView t.pk).size ≤ t.opr.maxsz ∧
    (t.ph = .fragLoop → (packetView t.pk).size = t.opr.maxsz) ∧
    t.work.cur ≤ t.pk.off ∧
    t.pk.off + t.pk.len ≤ t.work.r1 ∧
    t.work.r1 ≤ t.opr.len

/-- A step that presents a packet marks it exactly when it concludes a unit that ends at the buffer
end: a non-final fragment never carries the marker (R117, R118, R123); TS and CTX are the command's
(R124). -/
def Obligations.MarkerOnlyOnLastPacketOfLastUnit : Prop :=
  ∀ s t : State, Inv s → s.pk.valid = false → step s = .next t → t.pk.valid = true →
    (t.pk.m = true ↔ t.ph ≠ .fragLoop ∧ t.work.r1 = t.opr.len) ∧
    t.pk.ts = t.opr.ts ∧ t.pk.ctx = t.opr.ctx

/-- An empty unit occurs only with CUR = LEN, is marked, and is sent as one empty packet at PK_OFF
= LEN (R113). It holds in every turn in which the block takes its own step; which turns these are
is log entries 6 and 21. -/
def Obligations.EmptyUnitIsOneMarkedEmptyPacket : Prop :=
  ∀ s b : State, Inv s → TakesOwnStep s b → s.ph = .single → s.pk.valid = false →
    s.work.ulen = 0 →
    s.work.cur = s.opr.len ∧
    ∃ t : State, step s = .next t ∧ t.pk.valid = true ∧ t.pk.m = true ∧ t.pk.fuv = false ∧
      t.pk.off = s.opr.len ∧ t.pk.len = 0

/-- The fragmentation form (R125, R126, R127, R64): from FRAG_INIT, with the buffer bound, enough
answers and a host that waits or presents commands (log entries 6, 21), the block presents exactly
N = ceil((ULEN - 2) / (MAXSZ - 3)) ≥ 2 packets, packet j with marker, header, offset and length as
the rules give them, and goes to ADV; their payloads, put together in order, are the unit's bytes
after its 2-byte header. That an answer is taken on its SINK_W bits is the MODEL'S READING (log
entry 24). -/
def Obligations.FragmentedUnitReassembles : Prop :=
  ∀ (s : State) (b0 b1 : Byte) (n : Nat) (ps : List Packet), Inv s → quietHost s = true →
    s.ph = .fragInit → s.buf.boundTo s.opr.len →
    s.byteAt s.work.cur = some b0 → s.byteAt (s.work.cur + 1) = some b1 →
    n = fragmentCount s.work.ulen s.opr.maxsz → n ≤ s.sink.answers.length →
    ps = (List.range n).map (fragmentPacket s b0 b1) →
    2 ≤ n ∧
    (ps.map (Packet.payload s.buf)).flatten =
      payloadFrom s.buf (s.work.cur + 2) (s.work.ulen - 2) ∧
    ∃ (k : Nat) (t : State), core.run k s = .next t ∧ t.ph = .adv ∧ t.pk.valid = false ∧
      t.sink.received =
        s.sink.received ++ ps.zip ((s.sink.answers.take n).map s.widths.answer)

/-- The phases refine the whole operation (R106): if the pseudocode of R106 gives a run over the
buffer, then PKT, accepted and stepped with enough answers of the sink under a host that waits or
presents commands (log entries 6, 21), presents exactly its packets in its order, each answered
once, and completes with RESULT the OR of everything raised (R143), writing no result register.
That every answer other than 0 raises RESULT.SINK where SINK_W is above 1 is the MODEL'S READING
(log entry 24); at one bit it is the rule. -/
def Obligations.PhasesRefinePacketize : Prop :=
  ∀ (s : State) (len maxsz : Nat) (ts : Stamp) (ctx : Nat) (run : PktRun),
    (Instr.pkt len maxsz ts ctx).wellFormed s.widths = true →
    s.busy = false → s.pk.valid = false → quietHost s = true →
    packetize s.buf { len := len, maxsz := maxsz, ts := ts, ctx := ctx, fuType := s.fuType }
      = .ok run →
    run.packets.length ≤ s.sink.answers.length →
    ∃ (t u : State) (k : Nat), exec (.pkt len maxsz ts ctx) s = .next t ∧
      core.run k t = .next u ∧ u.status = 2 ∧ u.ph = .idle ∧ u.pk.valid = false ∧
      u.sink.received = s.sink.received ++
        run.packets.zip ((s.sink.answers.take run.packets.length).map s.widths.answer) ∧
      u.sink.answers = s.sink.answers.drop run.packets.length ∧
      u.sinkErr = (s.sink.answers.take run.packets.length).any (fun a => s.widths.answer a != 0) ∧
      u.decErr = run.dec ∧ u.paramErr = run.param ∧ u.res = s.res ∧ u.buf = s.buf

/-- PKT always ends (R130, R28): an operation in progress over a bound buffer, with each packet
answered and a host that waits or presents commands (log entries 6, 21), completes; R174 bounds the answers it can need. -/
def Obligations.PktAlwaysCompletes : Prop :=
  ∀ s : State, Inv s → s.busy = true → quietHost s = true → s.buf.boundTo s.opr.len →
    s.opr.len / 3 + s.opr.len ≤ s.sink.answers.length →
    ∃ (k : Nat) (t : State), core.run k s = .next t ∧ t.ph = .idle ∧ t.done = true ∧
      t.busy = false ∧ t.pk.valid = false

/-- The sink's answers change nothing but RESULT.SINK and PK_S (R122): two runs that differ only in the
values of the sink's answers, of RESULT.SINK and of PK_S go through the same packets, phases and
registers, however long they are. -/
def Obligations.PacketsDoNotDependOnAnswers : Prop :=
  ∀ (k : Nat) (s t s' : State), blindView s = blindView t → core.run k s = .next s' →
    ∃ t' : State, core.run k t = .next t' ∧ blindView s' = blindView t'

/-! ### The operation of R106 and the scanner -/

/-- Under the parameter check RESULT.DEC is never raised (R115), and a buffer without a start code, or
an empty one, gives no packet and no error (R132). -/
def Obligations.PacketizeRaisesNoDecAndNeedsAStartCode : Prop :=
  ∀ (m : Memory) (a : PktArgs) (run : PktRun), packetize m a = .ok run →
    run.dec = false ∧ (run.param = true ↔ a.maxsz ≤ 3) ∧
    ((∀ p, ¬ MatchAt m a.len p) → run.packets = [])

/-- In every PKT that presents a packet exactly one packet is marked and it is the last one (R123). -/
def Obligations.ExactlyTheLastPacketIsMarked : Prop :=
  ∀ (m : Memory) (a : PktArgs) (run : PktRun), packetize m a = .ok run → run.packets ≠ [] →
    ∃ (ps : List Packet) (p : Packet), run.packets = ps ++ [p] ∧ p.m = true ∧
      ∀ q ∈ ps, q.m = false

/-- Packets stand in buffer order: each one's payload ends at or before the next one's begins, and
PK_OFF strictly increases (R51). -/
def Obligations.PacketsAreInBufferOrder : Prop :=
  ∀ (m : Memory) (a : PktArgs) (run : PktRun), packetize m a = .ok run →
    run.packets.Pairwise fun p q => p.off + p.len ≤ q.off ∧ p.off < q.off

/-- The number of packets of one PKT is at most floor(LEN / 3) + LEN (R174). -/
def Obligations.PacketCountIsBounded : Prop :=
  ∀ (m : Memory) (a : PktArgs) (run : PktRun), packetize m a = .ok run →
    run.packets.length ≤ a.len / 3 + a.len

/-- Consequences of R76 and R84: the result of Scan is unique, lies between pos and LEN, is LEN or at
most LEN - 3, is a fixed point, is monotone in pos, and SkipLen at a result below LEN is 3. -/
def Obligations.ScanResultLaws : Prop :=
  ∀ (m : Memory) (len pos p : Nat), scan m len pos = .ok p →
    p ≤ len ∧ (pos ≤ len → pos ≤ p) ∧ (p = len ∨ p + 3 ≤ len) ∧ scan m len p = .ok p ∧
    (p < len → MatchAt m len p ∧ skipLen m len p = .ok 3) ∧
    (∀ pos' p', pos ≤ pos' → scan m len pos' = .ok p' → p ≤ p') ∧
    (∀ p', IsScan m len pos p' → p' = p)

/-- The zero-byte test is exact (R79). -/
def Obligations.HaszeroIsExact : Prop :=
  ∀ b0 b1 b2 b3 : Byte,
    haszero (wordOfBytes b0 b1 b2 b3) = true ↔ b0 = 0 ∨ b1 = 0 ∨ b2 = 0 ∨ b3 = 0

/-- The three-phase scanner gives the byte-wise scanner's result, for every buffer bound up to LEN,
every position and every BASE_ALIGN (R81). -/
def Obligations.ScanFastEqualsScan : Prop :=
  ∀ (m : Memory) (len a0 pos : Nat), m.boundTo len → scanFast m len a0 pos = scan m len pos

/-- The read footprints (R39, R40): results depend on the buffer only through the bytes of the
footprint, which is empty for SCAN when LEN < 3 or POS > LEN - 3, for SCLEN when POS + 3 > LEN, for PKT
when PARAM is raised, and for HDEC, HENC and ISKEY always; outside it the buffer may hold anything. -/
def Obligations.ResultsDependOnlyOnTheFootprint : Prop :=
  (∀ (m m' : Memory) (len pos : Nat),
    ((∀ a, scanFootprint len pos a → memRead? m a = memRead? m' a) →
      scan m len pos = scan m' len pos) ∧
    ((∀ a, sclenFootprint len pos a → memRead? m a = memRead? m' a) →
      skipLen m len pos = skipLen m' len pos) ∧
    (∀ p : PktArgs, (∀ a, pktFootprint p a → memRead? m a = memRead? m' a) →
      packetize m p = packetize m' p)) ∧
  (∀ (i : Instr) (s t : State) (m' : Memory),
    (∃ b0 b1, i = .hdec b0 b1) ∨ (∃ f ty l d, i = .henc f ty l d) ∨ (∃ ty, i = .iskey ty) →
    s.busy = false → exec i s = .next t →
    exec i { s with buf := m' } = .next { t with buf := m' })
end

