-- ==== Sys2Proof/Laws/Flags.lean ====
section
/-! SUPPORT. The Start and End bits of FU2 under the three operations on it (R116 to R118), and the
header bytes PKT builds (R63). -/

namespace Sys2Proof.Machine

@[simp] theorem startBit_fu2First (t : BitVec 6) : startBit (fu2First t) = true := by
  revert t; decide
@[simp] theorem endBit_fu2First (t : BitVec 6) : endBit (fu2First t) = false := by
  revert t; decide
@[simp] theorem fu2First_type (t : BitVec 6) : (fu2First t).setWidth 6 = t := by revert t; decide
@[simp] theorem startBit_fu2ClearStart (x : Byte) : startBit (fu2ClearStart x) = false := by
  revert x; decide
@[simp] theorem endBit_fu2ClearStart (x : Byte) : endBit (fu2ClearStart x) = endBit x := by
  revert x; decide
@[simp] theorem fu2ClearStart_type (x : Byte) : (fu2ClearStart x).setWidth 6 = x.setWidth 6 := by
  revert x; decide
@[simp] theorem startBit_fu2SetEnd (x : Byte) : startBit (fu2SetEnd x) = startBit x := by
  revert x; decide
@[simp] theorem endBit_fu2SetEnd (x : Byte) : endBit (fu2SetEnd x) = true := by revert x; decide
@[simp] theorem fu2SetEnd_type (x : Byte) : (fu2SetEnd x).setWidth 6 = x.setWidth 6 := by
  revert x; decide

/-- A field that fits is not changed by HEnc's masks (R94). -/
theorem maskHeader_toNat (f : BitVec 1) (t : BitVec 6) (l : BitVec 6) (d : BitVec 3) :
    maskHeader f t.toNat l d.toNat = ⟨f, t, l, d⟩ := by
  simp [maskHeader]

/-- Byte 0 of a fragmentation header is `0uuuuuu0`: F = 0, FU_TYPE, layer bit 0 (R63). -/
theorem firstFuBytes_b0 (u : BitVec 6) (b0 b1 : Byte) : (firstFuBytes u b0 b1).b0 = fuByte0 u := by
  simp only [firstFuBytes, hencFn, maskHeader_toNat, headerByte0, fuByte0]
  revert u; decide

/-- Byte 1 of a fragmentation header is `00000ddd`: layer 0 and the unit's temporal id (R63). -/
theorem firstFuBytes_b1 (u : BitVec 6) (b0 b1 : Byte) :
    (firstFuBytes u b0 b1).b1 = fuByte1 (headerOfBytes b0 b1).d := by
  simp only [firstFuBytes, hencFn, maskHeader_toNat, headerByte1, fuByte1, hdecFn]
  generalize (headerOfBytes b0 b1).d = d
  revert d; decide

end Sys2Proof.Machine
end

