-- ==== Sys2Proof/Laws/Memory.lean ====
section
/-! SUPPORT. The laws of BUF: read after write, a write leaves every other byte alone, and every
memory operation keeps the canonical form. -/

namespace Sys2Proof.Machine

variable {top : Nat}

/-- Read after one write (R35): the written offset reads as written, every other as before. -/
theorem memRead?_memWrite (m : Memory) (a : Nat) (v : Byte) (x : Nat) :
    memRead? (memWrite m a v) x = if x = a then some v else memRead? m x := by
  induction m with
  | nil => simp only [memWrite, memRead?, eq_comm]
  | cons c m ih =>
    obtain ⟨k, b⟩ := c
    by_cases h1 : a < k
    · simp only [memWrite, if_pos h1, memRead?, eq_comm]
    · by_cases h2 : a = k
      · simp only [memWrite, if_neg h1, if_pos h2, memRead?]
        split_ifs <;> first | rfl | omega
      · simp only [memWrite, if_neg h1, if_neg h2, memRead?, ih]
        split_ifs <;> first | rfl | omega

/-- Read after a run of writes (R42: byte 0 at the lowest offset). -/
theorem memRead?_memWriteBytes (bytes : List Byte) (m : Memory) (a x : Nat) :
    memRead? (memWriteBytes m a bytes) x =
      if a ≤ x ∧ x < a + bytes.length then bytes[x - a]? else memRead? m x := by
  induction bytes generalizing m a with
  | nil => simp only [memWriteBytes, List.length_nil]; rw [if_neg (by omega)]
  | cons v vs ih =>
    rw [memWriteBytes, ih, memRead?_memWrite, List.length_cons]
    rcases lt_trichotomy x a with h | rfl | h
    · rw [if_neg (by omega), if_neg (by omega), if_neg (by omega)]
    · rw [if_neg (by omega), if_pos rfl, if_pos (by omega)]; simp
    · obtain ⟨d, rfl⟩ : ∃ d, x = a + 1 + d := ⟨x - (a + 1), by omega⟩
      have e : a + 1 + d - a = d + 1 := by omega
      by_cases h2 : d < vs.length
      · rw [if_pos (by omega), if_pos (by omega), e]; simp
      · rw [if_neg (by omega), if_neg (by omega), if_neg (by omega)]

/-- A write keeps the canonical form above any lower bound the offset meets. -/
theorem memWrite_wfFrom (m : Memory) (lo a : Nat) (v : Byte) (h : Memory.wfFrom top lo m = true)
    (hlo : lo ≤ a) (ha : a < top) : Memory.wfFrom top lo (memWrite m a v) = true := by
  induction m generalizing lo with
  | nil => simp [memWrite, Memory.wfFrom, hlo, ha]
  | cons c m ih =>
    obtain ⟨k, b⟩ := c
    simp only [Memory.wfFrom, Bool.and_eq_true, decide_eq_true_eq] at h
    obtain ⟨⟨h1, h2⟩, h3⟩ := h
    simp only [memWrite]
    split_ifs with g1 g2
    · simp [Memory.wfFrom, hlo, ha, h2, h3]; omega
    · subst g2; simp [Memory.wfFrom, hlo, ha, h3]
    · simp only [Memory.wfFrom, h1, h2, decide_true, Bool.true_and]
      exact ih (k + 1) h3 (by omega)

/-- A write inside the address space keeps the canonical form. -/
theorem memWrite_wf (m : Memory) (a : Nat) (v : Byte) (h : Memory.wf top m = true)
    (ha : a < top) : Memory.wf top (memWrite m a v) = true :=
  memWrite_wfFrom m 0 a v h (Nat.zero_le a) ha

/-- A run of writes inside the address space keeps the canonical form. -/
theorem memWriteBytes_wf (bytes : List Byte) (m : Memory) (a : Nat) (h : Memory.wf top m = true)
    (ha : a + bytes.length ≤ top) : Memory.wf top (memWriteBytes m a bytes) = true := by
  induction bytes generalizing m a with
  | nil => exact h
  | cons v vs ih =>
    rw [List.length_cons] at ha
    exact ih (memWrite m a v) (a + 1) (memWrite_wf m a v h (by omega)) (by omega)

/-- The empty buffer is canonical. -/
theorem memory_nil_wf : Memory.wf top [] = true := rfl

/-- What a bounded read of one byte can do (R38, U9): the byte if it is inside LEN and bound; a fault
that names which of the two fails otherwise. -/
theorem memReadByte_cases (m : Memory) (len a : Nat) :
    (∃ b, a < len ∧ memRead? m a = some b ∧ memReadByte m len a = .ok b) ∨
    (a < len ∧ memRead? m a = none ∧ memReadByte m len a = .error (.unboundByte a)) ∨
    (len ≤ a ∧ memReadByte m len a = .error (.boundsFault a 1 len)) := by
  unfold memReadByte
  split_ifs with h
  · cases e : memRead? m a with
    | none => exact .inr (.inl ⟨h, rfl, rfl⟩)
    | some b => exact .inl ⟨b, h, rfl, rfl⟩
  · exact .inr (.inr ⟨by omega, rfl⟩)

/-- A read inside LEN of a bound byte gives the byte. -/
theorem memReadByte_ok {m : Memory} {len a : Nat} {b : Byte} (h : a < len)
    (hb : memRead? m a = some b) : memReadByte m len a = .ok b := by
  unfold memReadByte; rw [if_pos (Nat.succ_le_of_lt h), hb]

/-- A successful read was inside LEN and gave the bound byte. -/
theorem memReadByte_ok_iff {m : Memory} {len a : Nat} {b : Byte} :
    memReadByte m len a = .ok b ↔ a < len ∧ memRead? m a = some b := by
  constructor
  · intro h
    rcases memReadByte_cases m len a with ⟨c, h1, h2, h3⟩ | ⟨-, -, h3⟩ | ⟨-, h3⟩ <;> rw [h] at h3 <;>
      cases h3
    exact ⟨h1, h2⟩
  · rintro ⟨h1, h2⟩; exact memReadByte_ok h1 h2

/-- In a buffer bound up to LEN every read inside LEN gives a byte. -/
theorem memReadByte_of_boundTo {m : Memory} {len a : Nat} (hm : m.boundTo len) (h : a < len) :
    ∃ b, memRead? m a = some b ∧ memReadByte m len a = .ok b := by
  obtain ⟨b, hb⟩ := Option.isSome_iff_exists.1 (hm a h)
  exact ⟨b, hb, memReadByte_ok h hb⟩

/-- Being bound up to LEN, as a check that computes. -/
theorem boundTo_of_all {m : Memory} {len : Nat}
    (h : (List.range len).all (fun a => (memRead? m a).isSome) = true) : m.boundTo len :=
  fun a ha => List.all_eq_true.1 h a (List.mem_range.2 ha)

/-- One past the highest bound offset bounds every offset of a canonical buffer. -/
theorem memRead?_memTop (m : Memory) (lo x : Nat) (h : Memory.wfFrom top lo m = true)
    (hx : memTop m ≤ x) : memRead? m x = none := by
  induction m generalizing lo with
  | nil => rfl
  | cons c m ih =>
    obtain ⟨k, b⟩ := c
    simp only [Memory.wfFrom, Bool.and_eq_true, decide_eq_true_eq] at h
    obtain ⟨⟨-, -⟩, h3⟩ := h
    cases m with
    | nil => simp only [memTop] at hx; simp only [memRead?]; rw [if_neg (by omega)]
    | cons d m =>
      obtain ⟨k2, b2⟩ := d
      have hx' : memTop ((k2, b2) :: m) ≤ x := hx
      have hk : k < x := by
        have h4 := h3
        simp only [Memory.wfFrom, Bool.and_eq_true, decide_eq_true_eq] at h4
        by_contra hc
        have := ih (k + 1) h3 hx'
        have hle : ∀ (m : Memory) (lo k2 : Nat) (b2 : Byte),
            Memory.wfFrom top lo ((k2, b2) :: m) = true → lo < memTop ((k2, b2) :: m) := by
          intro m
          induction m with
          | nil => intro lo k2 b2 h; simp [Memory.wfFrom] at h; simp [memTop]; omega
          | cons e m ihm =>
            intro lo k2 b2 h
            obtain ⟨k3, b3⟩ := e
            simp only [Memory.wfFrom, Bool.and_eq_true, decide_eq_true_eq] at h
            have := ihm (k2 + 1) k3 b3 (by simp [Memory.wfFrom, h])
            simp only [memTop] at this ⊢
            omega
        have := hle m (k + 1) k2 b2 h3
        omega
      simp only [memRead?]
      rw [if_neg (by omega)]
      exact ih (k + 1) h3 hx'

end Sys2Proof.Machine
end

