-- ==== Sys2Proof/Laws/State.lean ====
section
/-! SUPPORT. One lemma per field per update of State, each true by rfl, so that no proof unfolds a
record update. -/

namespace Sys2Proof.Machine

variable (s : State)

/-! ### accept -/

@[simp] theorem accept_opr (ld : Operands → Operands) : (accept ld s).opr = ld s.opr := rfl
@[simp] theorem accept_res (ld : Operands → Operands) : (accept ld s).res = s.res := rfl
@[simp] theorem accept_written (ld : Operands → Operands) : (accept ld s).written = s.written := rfl
@[simp] theorem accept_status (ld : Operands → Operands) :
    (accept ld s).status = statusWord true false := rfl
@[simp] theorem accept_result (ld : Operands → Operands) : (accept ld s).result = 0 := rfl
@[simp] theorem accept_ph (ld : Operands → Operands) : (accept ld s).ph = s.ph := rfl
@[simp] theorem accept_work (ld : Operands → Operands) : (accept ld s).work = s.work := rfl
@[simp] theorem accept_pk (ld : Operands → Operands) : (accept ld s).pk = s.pk := rfl
@[simp] theorem accept_widths (ld : Operands → Operands) : (accept ld s).widths = s.widths := rfl
@[simp] theorem accept_fuType (ld : Operands → Operands) : (accept ld s).fuType = s.fuType := rfl
@[simp] theorem accept_buf (ld : Operands → Operands) : (accept ld s).buf = s.buf := rfl
@[simp] theorem accept_host (ld : Operands → Operands) : (accept ld s).host = s.host := rfl
@[simp] theorem accept_sink (ld : Operands → Operands) : (accept ld s).sink = s.sink := rfl

/-! ### complete -/

@[simp] theorem complete_opr : (complete s).opr = s.opr := rfl
@[simp] theorem complete_res : (complete s).res = s.res := rfl
@[simp] theorem complete_written : (complete s).written = s.written := rfl
@[simp] theorem complete_status : (complete s).status = statusWord false true := rfl
@[simp] theorem complete_result : (complete s).result = s.result := rfl
@[simp] theorem complete_ph : (complete s).ph = .idle := rfl
@[simp] theorem complete_work : (complete s).work = s.work := rfl
@[simp] theorem complete_pk : (complete s).pk = s.pk := rfl
@[simp] theorem complete_widths : (complete s).widths = s.widths := rfl
@[simp] theorem complete_fuType : (complete s).fuType = s.fuType := rfl
@[simp] theorem complete_buf : (complete s).buf = s.buf := rfl
@[simp] theorem complete_host : (complete s).host = s.host := rfl
@[simp] theorem complete_sink : (complete s).sink = s.sink := rfl

/-! ### raiseSink -/

@[simp] theorem raiseSink_opr (a : Nat) : (raiseSink a s).opr = s.opr := rfl
@[simp] theorem raiseSink_res (a : Nat) : (raiseSink a s).res = s.res := rfl
@[simp] theorem raiseSink_written (a : Nat) : (raiseSink a s).written = s.written := rfl
@[simp] theorem raiseSink_status (a : Nat) : (raiseSink a s).status = s.status := rfl
@[simp] theorem raiseSink_result (a : Nat) :
    (raiseSink a s).result = s.result ||| (if sinkFailed a then sinkCode else 0) := rfl
@[simp] theorem raiseSink_ph (a : Nat) : (raiseSink a s).ph = s.ph := rfl
@[simp] theorem raiseSink_work (a : Nat) : (raiseSink a s).work = s.work := rfl
@[simp] theorem raiseSink_pk (a : Nat) : (raiseSink a s).pk = s.pk := rfl
@[simp] theorem raiseSink_widths (a : Nat) : (raiseSink a s).widths = s.widths := rfl
@[simp] theorem raiseSink_fuType (a : Nat) : (raiseSink a s).fuType = s.fuType := rfl
@[simp] theorem raiseSink_buf (a : Nat) : (raiseSink a s).buf = s.buf := rfl
@[simp] theorem raiseSink_host (a : Nat) : (raiseSink a s).host = s.host := rfl
@[simp] theorem raiseSink_sink (a : Nat) : (raiseSink a s).sink = s.sink := rfl

/-! ### raiseDec -/

@[simp] theorem raiseDec_opr : (raiseDec s).opr = s.opr := rfl
@[simp] theorem raiseDec_res : (raiseDec s).res = s.res := rfl
@[simp] theorem raiseDec_written : (raiseDec s).written = s.written := rfl
@[simp] theorem raiseDec_status : (raiseDec s).status = s.status := rfl
@[simp] theorem raiseDec_result : (raiseDec s).result = s.result ||| decCode := rfl
@[simp] theorem raiseDec_ph : (raiseDec s).ph = s.ph := rfl
@[simp] theorem raiseDec_work : (raiseDec s).work = s.work := rfl
@[simp] theorem raiseDec_pk : (raiseDec s).pk = s.pk := rfl
@[simp] theorem raiseDec_widths : (raiseDec s).widths = s.widths := rfl
@[simp] theorem raiseDec_fuType : (raiseDec s).fuType = s.fuType := rfl
@[simp] theorem raiseDec_buf : (raiseDec s).buf = s.buf := rfl
@[simp] theorem raiseDec_host : (raiseDec s).host = s.host := rfl
@[simp] theorem raiseDec_sink : (raiseDec s).sink = s.sink := rfl

/-! ### raiseParam -/

@[simp] theorem raiseParam_opr : (raiseParam s).opr = s.opr := rfl
@[simp] theorem raiseParam_res : (raiseParam s).res = s.res := rfl
@[simp] theorem raiseParam_written : (raiseParam s).written = s.written := rfl
@[simp] theorem raiseParam_status : (raiseParam s).status = s.status := rfl
@[simp] theorem raiseParam_result : (raiseParam s).result = s.result ||| paramCode := rfl
@[simp] theorem raiseParam_ph : (raiseParam s).ph = s.ph := rfl
@[simp] theorem raiseParam_work : (raiseParam s).work = s.work := rfl
@[simp] theorem raiseParam_pk : (raiseParam s).pk = s.pk := rfl
@[simp] theorem raiseParam_widths : (raiseParam s).widths = s.widths := rfl
@[simp] theorem raiseParam_fuType : (raiseParam s).fuType = s.fuType := rfl
@[simp] theorem raiseParam_buf : (raiseParam s).buf = s.buf := rfl
@[simp] theorem raiseParam_host : (raiseParam s).host = s.host := rfl
@[simp] theorem raiseParam_sink : (raiseParam s).sink = s.sink := rfl

/-! ### toPhase -/

@[simp] theorem toPhase_opr (p : Phase) : (toPhase p s).opr = s.opr := rfl
@[simp] theorem toPhase_res (p : Phase) : (toPhase p s).res = s.res := rfl
@[simp] theorem toPhase_written (p : Phase) : (toPhase p s).written = s.written := rfl
@[simp] theorem toPhase_status (p : Phase) : (toPhase p s).status = s.status := rfl
@[simp] theorem toPhase_result (p : Phase) : (toPhase p s).result = s.result := rfl
@[simp] theorem toPhase_ph (p : Phase) : (toPhase p s).ph = p := rfl
@[simp] theorem toPhase_work (p : Phase) : (toPhase p s).work = s.work := rfl
@[simp] theorem toPhase_pk (p : Phase) : (toPhase p s).pk = s.pk := rfl
@[simp] theorem toPhase_widths (p : Phase) : (toPhase p s).widths = s.widths := rfl
@[simp] theorem toPhase_fuType (p : Phase) : (toPhase p s).fuType = s.fuType := rfl
@[simp] theorem toPhase_buf (p : Phase) : (toPhase p s).buf = s.buf := rfl
@[simp] theorem toPhase_host (p : Phase) : (toPhase p s).host = s.host := rfl
@[simp] theorem toPhase_sink (p : Phase) : (toPhase p s).sink = s.sink := rfl

/-! ### present -/

@[simp] theorem present_opr (m : Bool) (fu : Option FuBytes) (off n : Nat) :
    (present m fu off n s).opr = s.opr := rfl
@[simp] theorem present_res (m : Bool) (fu : Option FuBytes) (off n : Nat) :
    (present m fu off n s).res = s.res := rfl
@[simp] theorem present_written (m : Bool) (fu : Option FuBytes) (off n : Nat) :
    (present m fu off n s).written = s.written := rfl
@[simp] theorem present_status (m : Bool) (fu : Option FuBytes) (off n : Nat) :
    (present m fu off n s).status = s.status := rfl
@[simp] theorem present_result (m : Bool) (fu : Option FuBytes) (off n : Nat) :
    (present m fu off n s).result = s.result := rfl
@[simp] theorem present_ph (m : Bool) (fu : Option FuBytes) (off n : Nat) :
    (present m fu off n s).ph = s.ph := rfl
@[simp] theorem present_work (m : Bool) (fu : Option FuBytes) (off n : Nat) :
    (present m fu off n s).work = s.work := rfl
@[simp] theorem present_widths (m : Bool) (fu : Option FuBytes) (off n : Nat) :
    (present m fu off n s).widths = s.widths := rfl
@[simp] theorem present_fuType (m : Bool) (fu : Option FuBytes) (off n : Nat) :
    (present m fu off n s).fuType = s.fuType := rfl
@[simp] theorem present_buf (m : Bool) (fu : Option FuBytes) (off n : Nat) :
    (present m fu off n s).buf = s.buf := rfl
@[simp] theorem present_host (m : Bool) (fu : Option FuBytes) (off n : Nat) :
    (present m fu off n s).host = s.host := rfl
@[simp] theorem present_sink (m : Bool) (fu : Option FuBytes) (off n : Nat) :
    (present m fu off n s).sink = s.sink := rfl

/-! ### answered -/

@[simp] theorem answered_opr (a : Nat) (rest : List Nat) : (answered a rest s).opr = s.opr := rfl
@[simp] theorem answered_res (a : Nat) (rest : List Nat) : (answered a rest s).res = s.res := rfl
@[simp] theorem answered_written (a : Nat) (rest : List Nat) :
    (answered a rest s).written = s.written := rfl
@[simp] theorem answered_status (a : Nat) (rest : List Nat) :
    (answered a rest s).status = s.status := rfl
@[simp] theorem answered_result (a : Nat) (rest : List Nat) :
    (answered a rest s).result = s.result ||| (if sinkFailed a then sinkCode else 0) := rfl
@[simp] theorem answered_ph (a : Nat) (rest : List Nat) : (answered a rest s).ph = s.ph := rfl
@[simp] theorem answered_work (a : Nat) (rest : List Nat) : (answered a rest s).work = s.work := rfl
@[simp] theorem answered_pk (a : Nat) (rest : List Nat) :
    (answered a rest s).pk = { s.pk with valid := false, s := a } := rfl
@[simp] theorem answered_widths (a : Nat) (rest : List Nat) :
    (answered a rest s).widths = s.widths := rfl
@[simp] theorem answered_fuType (a : Nat) (rest : List Nat) :
    (answered a rest s).fuType = s.fuType := rfl
@[simp] theorem answered_buf (a : Nat) (rest : List Nat) : (answered a rest s).buf = s.buf := rfl
@[simp] theorem answered_host (a : Nat) (rest : List Nat) : (answered a rest s).host = s.host := rfl
@[simp] theorem answered_sink (a : Nat) (rest : List Nat) :
    (answered a rest s).sink = { answers := rest, received := s.sink.received ++ [(packetView s.pk, a)] } := rfl

/-! ### withHost -/

@[simp] theorem withHost_opr (h : List HostEvent) : (s.withHost h).opr = s.opr := rfl
@[simp] theorem withHost_res (h : List HostEvent) : (s.withHost h).res = s.res := rfl
@[simp] theorem withHost_written (h : List HostEvent) : (s.withHost h).written = s.written := rfl
@[simp] theorem withHost_status (h : List HostEvent) : (s.withHost h).status = s.status := rfl
@[simp] theorem withHost_result (h : List HostEvent) : (s.withHost h).result = s.result := rfl
@[simp] theorem withHost_ph (h : List HostEvent) : (s.withHost h).ph = s.ph := rfl
@[simp] theorem withHost_work (h : List HostEvent) : (s.withHost h).work = s.work := rfl
@[simp] theorem withHost_pk (h : List HostEvent) : (s.withHost h).pk = s.pk := rfl
@[simp] theorem withHost_widths (h : List HostEvent) : (s.withHost h).widths = s.widths := rfl
@[simp] theorem withHost_fuType (h : List HostEvent) : (s.withHost h).fuType = s.fuType := rfl
@[simp] theorem withHost_buf (h : List HostEvent) : (s.withHost h).buf = s.buf := rfl
@[simp] theorem withHost_host (h : List HostEvent) : (s.withHost h).host = h := rfl
@[simp] theorem withHost_sink (h : List HostEvent) : (s.withHost h).sink = s.sink := rfl

/-! ### writeRpos -/

@[simp] theorem writeRpos_opr (p : Nat) : (writeRpos p s).opr = s.opr := rfl
@[simp] theorem writeRpos_res (p : Nat) : (writeRpos p s).res = { s.res with rpos := p } := rfl
@[simp] theorem writeRpos_written (p : Nat) :
    (writeRpos p s).written = { s.written with scan := true } := rfl
@[simp] theorem writeRpos_status (p : Nat) : (writeRpos p s).status = s.status := rfl
@[simp] theorem writeRpos_result (p : Nat) : (writeRpos p s).result = s.result := rfl
@[simp] theorem writeRpos_ph (p : Nat) : (writeRpos p s).ph = s.ph := rfl
@[simp] theorem writeRpos_work (p : Nat) : (writeRpos p s).work = s.work := rfl
@[simp] theorem writeRpos_pk (p : Nat) : (writeRpos p s).pk = s.pk := rfl
@[simp] theorem writeRpos_widths (p : Nat) : (writeRpos p s).widths = s.widths := rfl
@[simp] theorem writeRpos_fuType (p : Nat) : (writeRpos p s).fuType = s.fuType := rfl
@[simp] theorem writeRpos_buf (p : Nat) : (writeRpos p s).buf = s.buf := rfl
@[simp] theorem writeRpos_host (p : Nat) : (writeRpos p s).host = s.host := rfl
@[simp] theorem writeRpos_sink (p : Nat) : (writeRpos p s).sink = s.sink := rfl

/-! ### writeSkip -/

@[simp] theorem writeSkip_opr (k : BitVec 3) : (writeSkip k s).opr = s.opr := rfl
@[simp] theorem writeSkip_res (k : BitVec 3) : (writeSkip k s).res = { s.res with skip := k } := rfl
@[simp] theorem writeSkip_written (k : BitVec 3) :
    (writeSkip k s).written = { s.written with sclen := true } := rfl
@[simp] theorem writeSkip_status (k : BitVec 3) : (writeSkip k s).status = s.status := rfl
@[simp] theorem writeSkip_result (k : BitVec 3) : (writeSkip k s).result = s.result := rfl
@[simp] theorem writeSkip_ph (k : BitVec 3) : (writeSkip k s).ph = s.ph := rfl
@[simp] theorem writeSkip_work (k : BitVec 3) : (writeSkip k s).work = s.work := rfl
@[simp] theorem writeSkip_pk (k : BitVec 3) : (writeSkip k s).pk = s.pk := rfl
@[simp] theorem writeSkip_widths (k : BitVec 3) : (writeSkip k s).widths = s.widths := rfl
@[simp] theorem writeSkip_fuType (k : BitVec 3) : (writeSkip k s).fuType = s.fuType := rfl
@[simp] theorem writeSkip_buf (k : BitVec 3) : (writeSkip k s).buf = s.buf := rfl
@[simp] theorem writeSkip_host (k : BitVec 3) : (writeSkip k s).host = s.host := rfl
@[simp] theorem writeSkip_sink (k : BitVec 3) : (writeSkip k s).sink = s.sink := rfl

/-! ### writeHeader -/

@[simp] theorem writeHeader_opr (h : UnitHeader) : (writeHeader h s).opr = s.opr := rfl
@[simp] theorem writeHeader_res (h : UnitHeader) :
    (writeHeader h s).res = { s.res with fout := h.f, tout := h.t, lout := h.l, dout := h.d } := rfl
@[simp] theorem writeHeader_written (h : UnitHeader) :
    (writeHeader h s).written = { s.written with hdec := true } := rfl
@[simp] theorem writeHeader_status (h : UnitHeader) : (writeHeader h s).status = s.status := rfl
@[simp] theorem writeHeader_result (h : UnitHeader) : (writeHeader h s).result = s.result := rfl
@[simp] theorem writeHeader_ph (h : UnitHeader) : (writeHeader h s).ph = s.ph := rfl
@[simp] theorem writeHeader_work (h : UnitHeader) : (writeHeader h s).work = s.work := rfl
@[simp] theorem writeHeader_pk (h : UnitHeader) : (writeHeader h s).pk = s.pk := rfl
@[simp] theorem writeHeader_widths (h : UnitHeader) : (writeHeader h s).widths = s.widths := rfl
@[simp] theorem writeHeader_fuType (h : UnitHeader) : (writeHeader h s).fuType = s.fuType := rfl
@[simp] theorem writeHeader_buf (h : UnitHeader) : (writeHeader h s).buf = s.buf := rfl
@[simp] theorem writeHeader_host (h : UnitHeader) : (writeHeader h s).host = s.host := rfl
@[simp] theorem writeHeader_sink (h : UnitHeader) : (writeHeader h s).sink = s.sink := rfl

/-! ### writeBytes -/

@[simp] theorem writeBytes_opr (b : Byte × Byte) : (writeBytes b s).opr = s.opr := rfl
@[simp] theorem writeBytes_res (b : Byte × Byte) :
    (writeBytes b s).res = { s.res with eb0 := b.1, eb1 := b.2 } := rfl
@[simp] theorem writeBytes_written (b : Byte × Byte) :
    (writeBytes b s).written = { s.written with henc := true } := rfl
@[simp] theorem writeBytes_status (b : Byte × Byte) : (writeBytes b s).status = s.status := rfl
@[simp] theorem writeBytes_result (b : Byte × Byte) : (writeBytes b s).result = s.result := rfl
@[simp] theorem writeBytes_ph (b : Byte × Byte) : (writeBytes b s).ph = s.ph := rfl
@[simp] theorem writeBytes_work (b : Byte × Byte) : (writeBytes b s).work = s.work := rfl
@[simp] theorem writeBytes_pk (b : Byte × Byte) : (writeBytes b s).pk = s.pk := rfl
@[simp] theorem writeBytes_widths (b : Byte × Byte) : (writeBytes b s).widths = s.widths := rfl
@[simp] theorem writeBytes_fuType (b : Byte × Byte) : (writeBytes b s).fuType = s.fuType := rfl
@[simp] theorem writeBytes_buf (b : Byte × Byte) : (writeBytes b s).buf = s.buf := rfl
@[simp] theorem writeBytes_host (b : Byte × Byte) : (writeBytes b s).host = s.host := rfl
@[simp] theorem writeBytes_sink (b : Byte × Byte) : (writeBytes b s).sink = s.sink := rfl

/-! ### writeKey -/

@[simp] theorem writeKey_opr (k : Bool) : (writeKey k s).opr = s.opr := rfl
@[simp] theorem writeKey_res (k : Bool) : (writeKey k s).res = { s.res with key := k } := rfl
@[simp] theorem writeKey_written (k : Bool) :
    (writeKey k s).written = { s.written with iskey := true } := rfl
@[simp] theorem writeKey_status (k : Bool) : (writeKey k s).status = s.status := rfl
@[simp] theorem writeKey_result (k : Bool) : (writeKey k s).result = s.result := rfl
@[simp] theorem writeKey_ph (k : Bool) : (writeKey k s).ph = s.ph := rfl
@[simp] theorem writeKey_work (k : Bool) : (writeKey k s).work = s.work := rfl
@[simp] theorem writeKey_pk (k : Bool) : (writeKey k s).pk = s.pk := rfl
@[simp] theorem writeKey_widths (k : Bool) : (writeKey k s).widths = s.widths := rfl
@[simp] theorem writeKey_fuType (k : Bool) : (writeKey k s).fuType = s.fuType := rfl
@[simp] theorem writeKey_buf (k : Bool) : (writeKey k s).buf = s.buf := rfl
@[simp] theorem writeKey_host (k : Bool) : (writeKey k s).host = s.host := rfl
@[simp] theorem writeKey_sink (k : Bool) : (writeKey k s).sink = s.sink := rfl

/-! ### setFlen -/

@[simp] theorem setFlen_opr : (setFlen s).opr = s.opr := rfl
@[simp] theorem setFlen_res : (setFlen s).res = s.res := rfl
@[simp] theorem setFlen_written : (setFlen s).written = s.written := rfl
@[simp] theorem setFlen_status : (setFlen s).status = s.status := rfl
@[simp] theorem setFlen_result : (setFlen s).result = s.result := rfl
@[simp] theorem setFlen_ph : (setFlen s).ph = s.ph := rfl
@[simp] theorem setFlen_work : (setFlen s).work = { s.work with flen := s.opr.maxsz - 3 } := rfl
@[simp] theorem setFlen_pk : (setFlen s).pk = s.pk := rfl
@[simp] theorem setFlen_widths : (setFlen s).widths = s.widths := rfl
@[simp] theorem setFlen_fuType : (setFlen s).fuType = s.fuType := rfl
@[simp] theorem setFlen_buf : (setFlen s).buf = s.buf := rfl
@[simp] theorem setFlen_host : (setFlen s).host = s.host := rfl
@[simp] theorem setFlen_sink : (setFlen s).sink = s.sink := rfl

/-! ### setEnd -/

@[simp] theorem setEnd_opr : (setEnd s).opr = s.opr := rfl
@[simp] theorem setEnd_res : (setEnd s).res = s.res := rfl
@[simp] theorem setEnd_written : (setEnd s).written = s.written := rfl
@[simp] theorem setEnd_status : (setEnd s).status = s.status := rfl
@[simp] theorem setEnd_result : (setEnd s).result = s.result := rfl
@[simp] theorem setEnd_ph : (setEnd s).ph = s.ph := rfl
@[simp] theorem setEnd_work : (setEnd s).work = { s.work with fu2 := fu2SetEnd s.work.fu2 } := rfl
@[simp] theorem setEnd_pk : (setEnd s).pk = s.pk := rfl
@[simp] theorem setEnd_widths : (setEnd s).widths = s.widths := rfl
@[simp] theorem setEnd_fuType : (setEnd s).fuType = s.fuType := rfl
@[simp] theorem setEnd_buf : (setEnd s).buf = s.buf := rfl
@[simp] theorem setEnd_host : (setEnd s).host = s.host := rfl
@[simp] theorem setEnd_sink : (setEnd s).sink = s.sink := rfl

/-! ### fragAdvance -/

@[simp] theorem fragAdvance_opr : (fragAdvance s).opr = s.opr := rfl
@[simp] theorem fragAdvance_res : (fragAdvance s).res = s.res := rfl
@[simp] theorem fragAdvance_written : (fragAdvance s).written = s.written := rfl
@[simp] theorem fragAdvance_status : (fragAdvance s).status = s.status := rfl
@[simp] theorem fragAdvance_result : (fragAdvance s).result = s.result := rfl
@[simp] theorem fragAdvance_ph : (fragAdvance s).ph = s.ph := rfl
@[simp] theorem fragAdvance_work :
    (fragAdvance s).work = { s.work with off := s.work.off + s.work.flen, rem := s.work.rem - s.work.flen, fu2 := fu2ClearStart s.work.fu2 } := rfl
@[simp] theorem fragAdvance_pk : (fragAdvance s).pk = s.pk := rfl
@[simp] theorem fragAdvance_widths : (fragAdvance s).widths = s.widths := rfl
@[simp] theorem fragAdvance_fuType : (fragAdvance s).fuType = s.fuType := rfl
@[simp] theorem fragAdvance_buf : (fragAdvance s).buf = s.buf := rfl
@[simp] theorem fragAdvance_host : (fragAdvance s).host = s.host := rfl
@[simp] theorem fragAdvance_sink : (fragAdvance s).sink = s.sink := rfl

/-! ### resetBlock -/

@[simp] theorem resetBlock_opr : (resetBlock s).opr = Operands.reset := rfl
@[simp] theorem resetBlock_res : (resetBlock s).res = Results.reset := rfl
@[simp] theorem resetBlock_written : (resetBlock s).written = Written.reset := rfl
@[simp] theorem resetBlock_status : (resetBlock s).status = 0 := rfl
@[simp] theorem resetBlock_result : (resetBlock s).result = 0 := rfl
@[simp] theorem resetBlock_ph : (resetBlock s).ph = .idle := rfl
@[simp] theorem resetBlock_work : (resetBlock s).work = Working.reset := rfl
@[simp] theorem resetBlock_pk : (resetBlock s).pk = PacketPort.reset := rfl
@[simp] theorem resetBlock_widths : (resetBlock s).widths = s.widths := rfl
@[simp] theorem resetBlock_fuType : (resetBlock s).fuType = s.fuType := rfl
@[simp] theorem resetBlock_buf : (resetBlock s).buf = s.buf := rfl
@[simp] theorem resetBlock_host : (resetBlock s).host = s.host := rfl
@[simp] theorem resetBlock_sink : (resetBlock s).sink = s.sink := rfl

/-! ### The packet port after `present` -/

@[simp] theorem present_valid (m : Bool) (fu : Option FuBytes) (off n : Nat) :
    (present m fu off n s).pk.valid = true := rfl
@[simp] theorem present_m (m : Bool) (fu : Option FuBytes) (off n : Nat) :
    (present m fu off n s).pk.m = m := rfl
@[simp] theorem present_ts (m : Bool) (fu : Option FuBytes) (off n : Nat) :
    (present m fu off n s).pk.ts = s.opr.ts := rfl
@[simp] theorem present_ctx (m : Bool) (fu : Option FuBytes) (off n : Nat) :
    (present m fu off n s).pk.ctx = s.opr.ctx := rfl
@[simp] theorem present_fuv (m : Bool) (fu : Option FuBytes) (off n : Nat) :
    (present m fu off n s).pk.fuv = fu.isSome := rfl
@[simp] theorem present_off (m : Bool) (fu : Option FuBytes) (off n : Nat) :
    (present m fu off n s).pk.off = off := rfl
@[simp] theorem present_len (m : Bool) (fu : Option FuBytes) (off n : Nat) :
    (present m fu off n s).pk.len = n := rfl
@[simp] theorem present_s (m : Bool) (fu : Option FuBytes) (off n : Nat) :
    (present m fu off n s).pk.s = s.pk.s := rfl

/-- The sink sees exactly the packet presented (R121, R23). -/
@[simp] theorem present_view (m : Bool) (fu : Option FuBytes) (off n : Nat) :
    packetView (present m fu off n s).pk =
      { m := m, ts := s.opr.ts, fu := fu, off := off, len := n, ctx := s.opr.ctx } := by
  cases fu <;> rfl

/-! ### STATUS and RESULT as words -/

theorem statusWord_true_false : statusWord true false = 1#2 := by decide
theorem statusWord_false_true : statusWord false true = 2#2 := by decide
@[simp] theorem statusWord_busy (b d : Bool) : (statusWord b d).getLsbD 0 = b := by
  cases b <;> cases d <;> decide
@[simp] theorem statusWord_done (b d : Bool) : (statusWord b d).getLsbD 1 = d := by
  cases b <;> cases d <;> decide

/-! ### The flags after each update -/

@[simp] theorem accept_busy (ld : Operands → Operands) :
    (accept ld s).busy = true := by
  change (statusWord true false).getLsbD 0 = true; decide
@[simp] theorem accept_done (ld : Operands → Operands) :
    (accept ld s).done = false := by
  change (statusWord true false).getLsbD 1 = false; decide
@[simp] theorem accept_sinkErr (ld : Operands → Operands) :
    (accept ld s).sinkErr = false := by
  change (0#3).getLsbD 0 = false; decide
@[simp] theorem accept_decErr (ld : Operands → Operands) :
    (accept ld s).decErr = false := by
  change (0#3).getLsbD 1 = false; decide
@[simp] theorem accept_paramErr (ld : Operands → Operands) :
    (accept ld s).paramErr = false := by
  change (0#3).getLsbD 2 = false; decide

@[simp] theorem complete_busy :
    (complete s).busy = false := by
  change (statusWord false true).getLsbD 0 = false; decide
@[simp] theorem complete_done :
    (complete s).done = true := by
  change (statusWord false true).getLsbD 1 = true; decide
@[simp] theorem complete_sinkErr :
    (complete s).sinkErr = s.sinkErr := rfl
@[simp] theorem complete_decErr :
    (complete s).decErr = s.decErr := rfl
@[simp] theorem complete_paramErr :
    (complete s).paramErr = s.paramErr := rfl

@[simp] theorem raiseSink_busy (a : Nat) :
    (raiseSink a s).busy = s.busy := rfl
@[simp] theorem raiseSink_done (a : Nat) :
    (raiseSink a s).done = s.done := rfl
@[simp] theorem raiseSink_sinkErr (a : Nat) :
    (raiseSink a s).sinkErr = (s.sinkErr || sinkFailed a) := by
  change (s.result ||| (if sinkFailed a then sinkCode else 0)).getLsbD 0 = _
  rw [BitVec.getLsbD_or]; cases sinkFailed a <;> simp [sinkCode, State.sinkErr]
@[simp] theorem raiseSink_decErr (a : Nat) :
    (raiseSink a s).decErr = s.decErr := by
  change (s.result ||| (if sinkFailed a then sinkCode else 0)).getLsbD 1 = _
  rw [BitVec.getLsbD_or]; cases sinkFailed a <;> simp [sinkCode, State.decErr]
@[simp] theorem raiseSink_paramErr (a : Nat) :
    (raiseSink a s).paramErr = s.paramErr := by
  change (s.result ||| (if sinkFailed a then sinkCode else 0)).getLsbD 2 = _
  rw [BitVec.getLsbD_or]; cases sinkFailed a <;> simp [sinkCode, State.paramErr]

@[simp] theorem raiseDec_busy :
    (raiseDec s).busy = s.busy := rfl
@[simp] theorem raiseDec_done :
    (raiseDec s).done = s.done := rfl
@[simp] theorem raiseDec_sinkErr :
    (raiseDec s).sinkErr = s.sinkErr := by
  change (s.result ||| decCode).getLsbD 0 = _
  rw [BitVec.getLsbD_or]; simp [decCode, State.sinkErr]
@[simp] theorem raiseDec_decErr :
    (raiseDec s).decErr = true := by
  change (s.result ||| decCode).getLsbD 1 = _
  rw [BitVec.getLsbD_or]; simp [decCode]
@[simp] theorem raiseDec_paramErr :
    (raiseDec s).paramErr = s.paramErr := by
  change (s.result ||| decCode).getLsbD 2 = _
  rw [BitVec.getLsbD_or]; simp [decCode, State.paramErr]

@[simp] theorem raiseParam_busy :
    (raiseParam s).busy = s.busy := rfl
@[simp] theorem raiseParam_done :
    (raiseParam s).done = s.done := rfl
@[simp] theorem raiseParam_sinkErr :
    (raiseParam s).sinkErr = s.sinkErr := by
  change (s.result ||| paramCode).getLsbD 0 = _
  rw [BitVec.getLsbD_or]; simp [paramCode, State.sinkErr]
@[simp] theorem raiseParam_decErr :
    (raiseParam s).decErr = s.decErr := by
  change (s.result ||| paramCode).getLsbD 1 = _
  rw [BitVec.getLsbD_or]; simp [paramCode, State.decErr]
@[simp] theorem raiseParam_paramErr :
    (raiseParam s).paramErr = true := by
  change (s.result ||| paramCode).getLsbD 2 = _
  rw [BitVec.getLsbD_or]; simp [paramCode]

@[simp] theorem toPhase_busy (p : Phase) :
    (toPhase p s).busy = s.busy := rfl
@[simp] theorem toPhase_done (p : Phase) :
    (toPhase p s).done = s.done := rfl
@[simp] theorem toPhase_sinkErr (p : Phase) :
    (toPhase p s).sinkErr = s.sinkErr := rfl
@[simp] theorem toPhase_decErr (p : Phase) :
    (toPhase p s).decErr = s.decErr := rfl
@[simp] theorem toPhase_paramErr (p : Phase) :
    (toPhase p s).paramErr = s.paramErr := rfl

@[simp] theorem present_busy (m : Bool) (fu : Option FuBytes) (off n : Nat) :
    (present m fu off n s).busy = s.busy := rfl
@[simp] theorem present_done (m : Bool) (fu : Option FuBytes) (off n : Nat) :
    (present m fu off n s).done = s.done := rfl
@[simp] theorem present_sinkErr (m : Bool) (fu : Option FuBytes) (off n : Nat) :
    (present m fu off n s).sinkErr = s.sinkErr := rfl
@[simp] theorem present_decErr (m : Bool) (fu : Option FuBytes) (off n : Nat) :
    (present m fu off n s).decErr = s.decErr := rfl
@[simp] theorem present_paramErr (m : Bool) (fu : Option FuBytes) (off n : Nat) :
    (present m fu off n s).paramErr = s.paramErr := rfl

@[simp] theorem answered_busy (a : Nat) (rest : List Nat) :
    (answered a rest s).busy = s.busy := rfl
@[simp] theorem answered_done (a : Nat) (rest : List Nat) :
    (answered a rest s).done = s.done := rfl
@[simp] theorem answered_sinkErr (a : Nat) (rest : List Nat) :
    (answered a rest s).sinkErr = (s.sinkErr || sinkFailed a) := by
  change (s.result ||| (if sinkFailed a then sinkCode else 0)).getLsbD 0 = _
  rw [BitVec.getLsbD_or]; cases sinkFailed a <;> simp [sinkCode, State.sinkErr]
@[simp] theorem answered_decErr (a : Nat) (rest : List Nat) :
    (answered a rest s).decErr = s.decErr := by
  change (s.result ||| (if sinkFailed a then sinkCode else 0)).getLsbD 1 = _
  rw [BitVec.getLsbD_or]; cases sinkFailed a <;> simp [sinkCode, State.decErr]
@[simp] theorem answered_paramErr (a : Nat) (rest : List Nat) :
    (answered a rest s).paramErr = s.paramErr := by
  change (s.result ||| (if sinkFailed a then sinkCode else 0)).getLsbD 2 = _
  rw [BitVec.getLsbD_or]; cases sinkFailed a <;> simp [sinkCode, State.paramErr]

@[simp] theorem withHost_busy (h : List HostEvent) :
    (s.withHost h).busy = s.busy := rfl
@[simp] theorem withHost_done (h : List HostEvent) :
    (s.withHost h).done = s.done := rfl
@[simp] theorem withHost_sinkErr (h : List HostEvent) :
    (s.withHost h).sinkErr = s.sinkErr := rfl
@[simp] theorem withHost_decErr (h : List HostEvent) :
    (s.withHost h).decErr = s.decErr := rfl
@[simp] theorem withHost_paramErr (h : List HostEvent) :
    (s.withHost h).paramErr = s.paramErr := rfl

@[simp] theorem writeRpos_busy (p : Nat) :
    (writeRpos p s).busy = s.busy := rfl
@[simp] theorem writeRpos_done (p : Nat) :
    (writeRpos p s).done = s.done := rfl
@[simp] theorem writeRpos_sinkErr (p : Nat) :
    (writeRpos p s).sinkErr = s.sinkErr := rfl
@[simp] theorem writeRpos_decErr (p : Nat) :
    (writeRpos p s).decErr = s.decErr := rfl
@[simp] theorem writeRpos_paramErr (p : Nat) :
    (writeRpos p s).paramErr = s.paramErr := rfl

@[simp] theorem writeSkip_busy (k : BitVec 3) :
    (writeSkip k s).busy = s.busy := rfl
@[simp] theorem writeSkip_done (k : BitVec 3) :
    (writeSkip k s).done = s.done := rfl
@[simp] theorem writeSkip_sinkErr (k : BitVec 3) :
    (writeSkip k s).sinkErr = s.sinkErr := rfl
@[simp] theorem writeSkip_decErr (k : BitVec 3) :
    (writeSkip k s).decErr = s.decErr := rfl
@[simp] theorem writeSkip_paramErr (k : BitVec 3) :
    (writeSkip k s).paramErr = s.paramErr := rfl

@[simp] theorem writeHeader_busy (h : UnitHeader) :
    (writeHeader h s).busy = s.busy := rfl
@[simp] theorem writeHeader_done (h : UnitHeader) :
    (writeHeader h s).done = s.done := rfl
@[simp] theorem writeHeader_sinkErr (h : UnitHeader) :
    (writeHeader h s).sinkErr = s.sinkErr := rfl
@[simp] theorem writeHeader_decErr (h : UnitHeader) :
    (writeHeader h s).decErr = s.decErr := rfl
@[simp] theorem writeHeader_paramErr (h : UnitHeader) :
    (writeHeader h s).paramErr = s.paramErr := rfl

@[simp] theorem writeBytes_busy (b : Byte × Byte) :
    (writeBytes b s).busy = s.busy := rfl
@[simp] theorem writeBytes_done (b : Byte × Byte) :
    (writeBytes b s).done = s.done := rfl
@[simp] theorem writeBytes_sinkErr (b : Byte × Byte) :
    (writeBytes b s).sinkErr = s.sinkErr := rfl
@[simp] theorem writeBytes_decErr (b : Byte × Byte) :
    (writeBytes b s).decErr = s.decErr := rfl
@[simp] theorem writeBytes_paramErr (b : Byte × Byte) :
    (writeBytes b s).paramErr = s.paramErr := rfl

@[simp] theorem writeKey_busy (k : Bool) :
    (writeKey k s).busy = s.busy := rfl
@[simp] theorem writeKey_done (k : Bool) :
    (writeKey k s).done = s.done := rfl
@[simp] theorem writeKey_sinkErr (k : Bool) :
    (writeKey k s).sinkErr = s.sinkErr := rfl
@[simp] theorem writeKey_decErr (k : Bool) :
    (writeKey k s).decErr = s.decErr := rfl
@[simp] theorem writeKey_paramErr (k : Bool) :
    (writeKey k s).paramErr = s.paramErr := rfl

@[simp] theorem setFlen_busy :
    (setFlen s).busy = s.busy := rfl
@[simp] theorem setFlen_done :
    (setFlen s).done = s.done := rfl
@[simp] theorem setFlen_sinkErr :
    (setFlen s).sinkErr = s.sinkErr := rfl
@[simp] theorem setFlen_decErr :
    (setFlen s).decErr = s.decErr := rfl
@[simp] theorem setFlen_paramErr :
    (setFlen s).paramErr = s.paramErr := rfl

@[simp] theorem setEnd_busy :
    (setEnd s).busy = s.busy := rfl
@[simp] theorem setEnd_done :
    (setEnd s).done = s.done := rfl
@[simp] theorem setEnd_sinkErr :
    (setEnd s).sinkErr = s.sinkErr := rfl
@[simp] theorem setEnd_decErr :
    (setEnd s).decErr = s.decErr := rfl
@[simp] theorem setEnd_paramErr :
    (setEnd s).paramErr = s.paramErr := rfl

@[simp] theorem fragAdvance_busy :
    (fragAdvance s).busy = s.busy := rfl
@[simp] theorem fragAdvance_done :
    (fragAdvance s).done = s.done := rfl
@[simp] theorem fragAdvance_sinkErr :
    (fragAdvance s).sinkErr = s.sinkErr := rfl
@[simp] theorem fragAdvance_decErr :
    (fragAdvance s).decErr = s.decErr := rfl
@[simp] theorem fragAdvance_paramErr :
    (fragAdvance s).paramErr = s.paramErr := rfl

@[simp] theorem resetBlock_busy :
    (resetBlock s).busy = false := by
  change (0#2).getLsbD 0 = false; decide
@[simp] theorem resetBlock_done :
    (resetBlock s).done = false := by
  change (0#2).getLsbD 1 = false; decide
@[simp] theorem resetBlock_sinkErr :
    (resetBlock s).sinkErr = false := by
  change (0#3).getLsbD 0 = false; decide
@[simp] theorem resetBlock_decErr :
    (resetBlock s).decErr = false := by
  change (0#3).getLsbD 1 = false; decide
@[simp] theorem resetBlock_paramErr :
    (resetBlock s).paramErr = false := by
  change (0#3).getLsbD 2 = false; decide

@[simp] theorem withHost_self : s.withHost s.host = s := rfl

end Sys2Proof.Machine
end

