-- ==== Sys2Proof/Laws/Ops.lean ====
section
/-! SUPPORT. What each shared operation can do, said once: the command port, a computation over BUF,
an emitting phase, the host's store, and the step. Later proofs cite these and unfold nothing. -/

namespace Sys2Proof.Machine

/-- The command port with BUSY = 0: the command is accepted and runs (R19). -/
theorem onCommandPort_idle {ld : Operands → Operands}
    {run : State → Host.Outcome State Fault Refusal} {s : State} (h : s.busy = false) :
    onCommandPort ld run s = run (accept ld s) := by
  simp only [onCommandPort, h, Bool.false_eq_true, if_false]

/-- The command port with BUSY = 1: no effect (R19). -/
theorem onCommandPort_busy {ld : Operands → Operands}
    {run : State → Host.Outcome State Fault Refusal} {s : State} (h : s.busy = true) :
    onCommandPort ld run s = .next s := by
  simp only [onCommandPort, h, if_true]

/-- A computation over BUF that gave a value goes on with it. -/
@[simp] theorem withValue_ok {α : Type} (v : α) (k : α → Host.Outcome State Fault Refusal) :
    withValue (.ok v) k = k v := rfl

/-- A computation over BUF that stopped stops the step with its fault. -/
@[simp] theorem withValue_error {α : Type} (f : Fault) (k : α → Host.Outcome State Fault Refusal) :
    withValue (.error f : Except Fault α) k = .fault f := rfl

/-- If a computation over BUF led to a next state, it gave a value. -/
theorem withValue_next {α : Type} {x : Except Fault α}
    {k : α → Host.Outcome State Fault Refusal} {t : State} (h : withValue x k = .next t) :
    ∃ v, x = .ok v ∧ k v = .next t := by
  cases x with
  | error f => cases h
  | ok v => exact ⟨v, rfl, h⟩

/-- An emitting phase always answers a next state: the packet presented, the wait, or the answer taken
(R121, R166). -/
theorem emitStep_cases (put after : State → State) (s : State) :
    (s.pk.valid = false ∧ emitStep put after s = .next (put s)) ∨
    (s.pk.valid = true ∧ s.sink.answers = [] ∧ emitStep put after s = .next s) ∨
    (∃ a rest, s.pk.valid = true ∧ s.sink.answers = a :: rest ∧
      emitStep put after s = .next (after (answered (s.widths.answer a) rest s))) := by
  unfold emitStep
  cases hv : s.pk.valid with
  | false => exact .inl ⟨rfl, rfl⟩
  | true =>
    cases ha : s.sink.answers with
    | nil => exact .inr (.inl ⟨rfl, rfl, rfl⟩)
    | cons a rest => exact .inr (.inr ⟨a, rest, rfl, rfl, rfl⟩)

/-- The host's store: refused while BUSY = 1, a fault outside the address space, else the bytes stand
in the buffer and nothing else changes (R36, R6). -/
theorem hostStore_cases (base : Memory) (a : Nat) (bytes : List Byte) (s : State) :
    (s.busy = true ∧ hostStore base a bytes s = .refused .bufferInUse) ∨
    (s.busy = false ∧ a + bytes.length ≤ s.widths.maxLen ∧
      hostStore base a bytes s = .next { s with buf := memWriteBytes base a bytes }) ∨
    (s.busy = false ∧ s.widths.maxLen < a + bytes.length ∧
      hostStore base a bytes s = .fault (.outsideSpace a bytes.length)) := by
  unfold hostStore
  cases hb : s.busy with
  | true => exact .inl ⟨rfl, rfl⟩
  | false =>
    by_cases h : a + bytes.length ≤ s.widths.maxLen
    · exact .inr (.inl ⟨rfl, h, by simp [h]⟩)
    · exact .inr (.inr ⟨rfl, by omega, by simp [h]⟩)

/-- Without a transaction of the host the step is the block's own. -/
theorem step_of_host_nil {s : State} (h : s.host = []) : step s = blockStep s := by
  simp only [step, turn, h]

/-- What one step can be: the block's own step, a command executed, a store of the host, or a reset. -/
theorem step_cases (s : State) :
    (∃ h, step s = blockStep (s.withHost h)) ∨
    (∃ c rest, s.busy = false ∧ step s = exec (decodeCommand c) (s.withHost rest)) ∨
    (∃ i rest, isCommand i = false ∧ step s = exec i (s.withHost rest)) ∨
    (∃ base a bytes rest, (base = s.buf ∨ base = []) ∧
      step s = hostStore base a bytes (s.withHost rest)) ∨
    (∃ rest, s.host = .reset :: rest ∧ step s = .next (resetBlock (s.withHost rest))) := by
  rcases hh : s.host with _ | ⟨e, rest⟩
  · exact .inl ⟨[], by rw [step_of_host_nil hh]; simp [State.withHost, ← hh]⟩
  · cases e with
    | wait => exact .inl ⟨rest, by simp only [step, turn, hh]⟩
    | command c hold =>
      cases hb : s.busy with
      | false =>
        exact .inr (.inl ⟨c, rest, rfl, by simp only [step, turn, hh, portStep, hb]; simp⟩)
      | true =>
        cases hold with
        | true => exact .inl ⟨s.host, by simp only [step, turn, hh, portStep, hb]; simp [← hh]⟩
        | false => exact .inl ⟨rest, by simp only [step, turn, hh, portStep, hb]; simp⟩
    | stream bytes =>
      cases hd : decodeStream bytes with
      | error x =>
        exact .inr (.inr (.inr (.inl ⟨s.buf, memTop s.buf, bytes, rest, .inl rfl, by
          simp only [step, turn, hh, streamStep, hd]; rfl⟩)))
      | ok i =>
        refine .inr (.inr (.inl ⟨i, rest, ?_, by simp only [step, turn, hh, streamStep, hd]⟩))
        unfold decodeStream at hd
        split at hd <;> (try split_ifs at hd) <;> cases hd <;> rfl
    | bind bytes =>
      exact .inr (.inr (.inr (.inl ⟨[], 0, bytes, rest, .inr rfl, by simp only [step, turn, hh]⟩)))
    | store a bytes =>
      exact .inr (.inr (.inr (.inl ⟨s.buf, a, bytes, rest, .inl rfl, by
        simp only [step, turn, hh]⟩)))
    | reset => exact .inr (.inr (.inr (.inr ⟨rest, rfl, by simp only [step, turn, hh]⟩)))

/-- A turn in which the block takes its own step (R19). -/
theorem step_of_takesOwnStep {s b : State} (h : TakesOwnStep s b) : step s = blockStep b := by
  unfold TakesOwnStep at h
  rcases hh : s.host with _ | ⟨e, rest⟩
  · rw [hh] at h; subst h; exact step_of_host_nil hh
  · rw [hh] at h
    cases e with
    | wait => subst h; simp only [step, turn, hh]
    | command c hold => obtain ⟨hb, rfl⟩ := h; simp only [step, turn, hh, portStep, hb, if_true]
    | stream _ => exact h.elim
    | bind _ => exact h.elim
    | store _ _ => exact h.elim
    | reset => exact h.elim

/-- The state the block steps in differs from the state of the turn in the host's list alone. -/
theorem TakesOwnStep.eq_withHost {s b : State} (h : TakesOwnStep s b) : b = s.withHost b.host := by
  unfold TakesOwnStep at h
  rcases hh : s.host with _ | ⟨e, rest⟩
  · rw [hh] at h; subst h; rfl
  · rw [hh] at h
    cases e with
    | wait => subst h; rfl
    | command c hold => obtain ⟨-, rfl⟩ := h; cases hold <;> rfl
    | stream _ => exact h.elim
    | bind _ => exact h.elim
    | store _ _ => exact h.elim
    | reset => exact h.elim

/-- While BUSY = 1 a host that only waits and presents commands leaves the block to its own step, and
goes on so. -/
theorem takesOwnStep_of_quiet {s : State} (hb : s.busy = true) (hq : quietHost s = true) :
    ∃ b, TakesOwnStep s b ∧ quietHost b = true := by
  unfold TakesOwnStep
  rcases hh : s.host with _ | ⟨e, rest⟩
  · exact ⟨s, rfl, hq⟩
  · simp only [quietHost, hh, List.all_cons, Bool.and_eq_true] at hq
    cases e with
    | wait => exact ⟨_, rfl, hq.2⟩
    | command c hold =>
      refine ⟨_, ⟨hb, rfl⟩, ?_⟩
      cases hold
      · exact hq.2
      · simpa [quietHost, hh] using hq
    | stream _ => exact absurd hq.1 (by simp [HostEvent.quiet])
    | bind _ => exact absurd hq.1 (by simp [HostEvent.quiet])
    | store _ _ => exact absurd hq.1 (by simp [HostEvent.quiet])
    | reset => exact absurd hq.1 (by simp [HostEvent.quiet])

/-- Where the phases decide: one equation per phase (R22). -/
theorem blockStep_idle {s : State} (h : s.ph = .idle) : blockStep s = .next s := by
  simp only [blockStep, h]
theorem blockStep_first {s : State} (h : s.ph = .first) : blockStep s = phaseFirst s := by
  simp only [blockStep, h]
theorem blockStep_skip {s : State} (h : s.ph = .skip) : blockStep s = phaseSkip s := by
  simp only [blockStep, h]
theorem blockStep_next {s : State} (h : s.ph = .next) : blockStep s = phaseNext s := by
  simp only [blockStep, h]
theorem blockStep_single {s : State} (h : s.ph = .single) : blockStep s = phaseSingle s := by
  simp only [blockStep, h]
theorem blockStep_fragInit {s : State} (h : s.ph = .fragInit) : blockStep s = phaseFragInit s := by
  simp only [blockStep, h]
theorem blockStep_fragLoop {s : State} (h : s.ph = .fragLoop) : blockStep s = phaseFragLoop s := by
  simp only [blockStep, h]
theorem blockStep_fragLast {s : State} (h : s.ph = .fragLast) : blockStep s = phaseFragLast s := by
  simp only [blockStep, h]
theorem blockStep_adv {s : State} (h : s.ph = .adv) : blockStep s = phaseAdv s := by
  simp only [blockStep, h]
theorem blockStep_finish {s : State} (h : s.ph = .finish) : blockStep s = phaseFinish s := by
  simp only [blockStep, h]

/-- Acceptance of the parameter check (R108). -/
theorem checkMaxsz_cases (s : State) :
    (s.opr.maxsz < 4 ∧ checkMaxsz s = toPhase .finish (raiseParam s)) ∨
    (4 ≤ s.opr.maxsz ∧ checkMaxsz s = toPhase .first s) := by
  unfold checkMaxsz
  by_cases h : s.opr.maxsz < Config.minMaxsz
  · exact .inl ⟨h, if_pos h⟩
  · exact .inr ⟨by simpa [Config.minMaxsz] using h, if_neg h⟩

/-- A run is a step and the rest of the run. -/
theorem core_run_succ {k : Nat} {s t : State} (h : step s = .next t) :
    core.run (k + 1) s = core.run k t := by
  have h' : core.step s = .next t := h
  simp only [Host.Core.run, h']

/-- No step, no change. -/
@[simp] theorem core_run_zero (s : State) : core.run 0 s = .next s := rfl

end Sys2Proof.Machine
end

