-- ==== Sys2Proof/Laws/Scanner.lean ====
section
/-! SUPPORT. What the scanner's functions can do, said once each: a value that meets the spec's
description, or the fault of a byte inside the buffer that nobody bound. No scan reads outside LEN. -/

namespace Sys2Proof.Machine

/-- The only way a computation over BUF stops: a byte of the buffer, inside LEN and at or after a
position, that the host never bound. -/
def StopsUnbound {α : Type} (m : Memory) (len lo : Nat) (x : Except Fault α) : Prop :=
  ∃ a, lo ≤ a ∧ a < len ∧ memRead? m a = none ∧ x = .error (.unboundByte a)

theorem StopsUnbound.not_boundTo {α : Type} {m : Memory} {len lo : Nat} {x : Except Fault α}
    (h : StopsUnbound m len lo x) : ¬ m.boundTo len := by
  rintro hb
  obtain ⟨a, -, h2, h3, -⟩ := h
  simpa [h3] using hb a h2

/-- Matching bytes that lie inside LEN: the answer says whether they are the bytes there. -/
theorem matchBytes_cases (m : Memory) (len : Nat) (vs : List Byte) (p : Nat)
    (h : p + vs.length ≤ len) :
    (matchBytes m len p vs = .ok true ∧ ∀ k, (hk : k < vs.length) → memRead? m (p + k) = some vs[k]) ∨
    (matchBytes m len p vs = .ok false ∧
      ∃ k, ∃ hk : k < vs.length, ∃ b, memRead? m (p + k) = some b ∧ b ≠ vs[k]) ∨
    StopsUnbound m len p (matchBytes m len p vs) := by
  induction vs generalizing p with
  | nil => exact .inl ⟨rfl, fun k hk => absurd hk (by simp)⟩
  | cons v vs ih =>
    rw [List.length_cons] at h
    rcases memReadByte_cases m len p with ⟨b, h1, h2, h3⟩ | ⟨h1, h2, h3⟩ | ⟨h1, -⟩
    · by_cases hv : b = v
      · have e : matchBytes m len p (v :: vs) = matchBytes m len (p + 1) vs := by
          simp only [matchBytes, h3, if_pos hv]
        rw [e]
        rcases ih (p + 1) (by omega) with ⟨g1, g2⟩ | ⟨g1, k, hk, c, g2, g3⟩ | ⟨a, g1, g2, g3, g4⟩
        · refine .inl ⟨g1, fun k hk => ?_⟩
          cases k with
          | zero => simpa [hv] using h2
          | succ k =>
            have := g2 k (by simpa using hk)
            rw [show p + (k + 1) = p + 1 + k by omega, this]; rfl
        · refine .inr (.inl ⟨g1, k + 1, by simpa using hk, c, ?_, by simpa using g3⟩)
          rw [show p + (k + 1) = p + 1 + k by omega]; exact g2
        · exact .inr (.inr ⟨a, by omega, g2, g3, g4⟩)
      · exact .inr (.inl ⟨by simp only [matchBytes, h3, if_neg hv], 0, by simp, b, h2, hv⟩)
    · exact .inr (.inr ⟨p, le_refl p, h1, h2, by simp only [matchBytes, h3]⟩)
    · omega

/-- Match3 (R75) decides whether a start code begins at p. -/
theorem match3_cases (m : Memory) (len p : Nat) :
    (match3 m len p = .ok true ∧ MatchAt m len p) ∨
    (match3 m len p = .ok false ∧ ¬ MatchAt m len p) ∨
    (p + 2 < len ∧ StopsUnbound m len p (match3 m len p)) := by
  by_cases h : p + 2 < len
  · rw [match3, if_pos h]
    rcases matchBytes_cases m len start3Bytes p (by simp [start3Bytes]; omega) with
      ⟨g1, g2⟩ | ⟨g1, k, hk, b, g2, g3⟩ | g
    · exact .inl ⟨g1, h, g2 0 (by decide), g2 1 (by decide), g2 2 (by decide)⟩
    · refine .inr (.inl ⟨g1, ?_⟩)
      rintro ⟨-, e0, e1, e2⟩
      have hk' : k < 3 := hk
      interval_cases k <;> simp_all [start3Bytes]
    · exact .inr (.inr ⟨h, g⟩)
  · exact .inr (.inl ⟨by rw [match3, if_neg h], fun hm => h hm.1⟩)

/-- Where a start code begins, Match3 says so. -/
theorem match3_of_matchAt {m : Memory} {len p : Nat} (h : MatchAt m len p) :
    match3 m len p = .ok true := by
  obtain ⟨h0, h1, h2, h3⟩ := h
  simp [match3, h0, matchBytes, start3Bytes, memReadByte_ok (show p < len by omega) h1,
    memReadByte_ok (show p + 1 < len by omega) h2, memReadByte_ok (show p + 1 + 1 < len by omega) h3]

/-- The byte-wise scan with enough fuel: it answers the least match at or after p, or LEN. -/
theorem scanLoop_cases (m : Memory) (len n p : Nat) (hn : len ≤ p + n) :
    (∃ q, scanLoop m len n p = .ok q ∧ IsScan m len p q) ∨
    StopsUnbound m len p (scanLoop m len n p) := by
  induction n generalizing p with
  | zero =>
    exact .inl ⟨len, rfl, .inr ⟨rfl, fun q hq hm => by have := hm.1; omega⟩⟩
  | succ n ih =>
    by_cases h : p + 2 < len
    · rcases match3_cases m len p with ⟨g1, g2⟩ | ⟨g1, g2⟩ | ⟨-, a, g1, g2, g3, g4⟩
      · exact .inl ⟨p, by simp only [scanLoop, if_pos h, g1],
          .inl ⟨le_refl p, g2, fun q h1 h2 => by omega⟩⟩
      · have e : scanLoop m len (n + 1) p = scanLoop m len n (p + 1) := by
          simp only [scanLoop, if_pos h, g1]
        rw [e]
        have back : ∀ q, p ≤ q → MatchAt m len q → p + 1 ≤ q := by
          intro q hq hm
          rcases Nat.eq_or_lt_of_le hq with rfl | hlt
          · exact absurd hm g2
          · exact hlt
        rcases ih (p + 1) (by omega) with ⟨q, k1, k2⟩ | ⟨a, k1, k2, k3, k4⟩
        · refine .inl ⟨q, k1, ?_⟩
          rcases k2 with ⟨j1, j2, j3⟩ | ⟨j1, j2⟩
          · exact .inl ⟨by omega, j2, fun r hr hr2 hm => j3 r (back r hr hm) hr2 hm⟩
          · exact .inr ⟨j1, fun r hr hm => j2 r (back r hr hm) hm⟩
        · exact .inr ⟨a, by omega, k2, k3, k4⟩
      · exact .inr ⟨a, g1, g2, g3, by simp only [scanLoop, if_pos h, g4]⟩
    · exact .inl ⟨len, by simp only [scanLoop, if_neg h],
        .inr ⟨rfl, fun q hq hm => by have := hm.1; omega⟩⟩

/-- What Scan can do (R76): the described position, or the fault of an unbound byte of the buffer. -/
theorem scan_cases (m : Memory) (len pos : Nat) :
    (∃ p, scan m len pos = .ok p ∧ IsScan m len pos p) ∨ StopsUnbound m len pos (scan m len pos) :=
  scanLoop_cases m len (len - pos) pos (by omega)

/-- A scan that answers gives the described position. -/
theorem scan_ok {m : Memory} {len pos p : Nat} (h : scan m len pos = .ok p) : IsScan m len pos p := by
  rcases scan_cases m len pos with ⟨q, h1, h2⟩ | ⟨a, -, -, -, h4⟩
  · rw [h] at h1; cases h1; exact h2
  · rw [h] at h4; cases h4

/-- Over a buffer bound up to LEN a scan answers. -/
theorem scan_of_boundTo {m : Memory} {len : Nat} (hm : m.boundTo len) (pos : Nat) :
    ∃ p, scan m len pos = .ok p ∧ IsScan m len pos p := by
  rcases scan_cases m len pos with h | h
  · exact h
  · exact absurd hm h.not_boundTo

/-- A described position lies inside the buffer or is its end. -/
theorem IsScan.le_len {m : Memory} {len pos p : Nat} (h : IsScan m len pos p) : p ≤ len := by
  rcases h with ⟨-, h, -⟩ | ⟨h, -⟩
  · have := h.1; omega
  · omega

/-- A described position is not before the position searched from, when that is inside the buffer. -/
theorem IsScan.pos_le {m : Memory} {len pos p : Nat} (h : IsScan m len pos p) (hp : pos ≤ len) :
    pos ≤ p := by
  rcases h with ⟨h, -, -⟩ | ⟨h, -⟩ <;> omega

/-- A described position below LEN begins a start code. -/
theorem IsScan.matchAt {m : Memory} {len pos p : Nat} (h : IsScan m len pos p) (hp : p < len) :
    MatchAt m len p := by
  rcases h with ⟨-, h, -⟩ | ⟨h, -⟩
  · exact h
  · omega

/-- There is one described position. -/
theorem IsScan.unique {m : Memory} {len pos p q : Nat} (hp : IsScan m len pos p)
    (hq : IsScan m len pos q) : p = q := by
  rcases hp with ⟨a1, a2, a3⟩ | ⟨a1, a2⟩ <;> rcases hq with ⟨b1, b2, b3⟩ | ⟨b1, b2⟩
  · rcases lt_trichotomy p q with h | h | h
    · exact absurd a2 (b3 p a1 h)
    · exact h
    · exact absurd b2 (a3 q b1 h)
  · exact absurd a2 (b2 p a1)
  · exact absurd b2 (a2 q b1)
  · omega

/-- What SkipLen can do (R82). -/
theorem skipLen_cases (m : Memory) (len pos : Nat) :
    (∃ k, skipLen m len pos = .ok k ∧ IsSkipLen m len pos k) ∨
    StopsUnbound m len pos (skipLen m len pos) := by
  have three : pos + 2 < len →
      (matchBytes m len pos start3Bytes = .ok true ∧ MatchAt m len pos) ∨
      (matchBytes m len pos start3Bytes = .ok false ∧ ¬ MatchAt m len pos) ∨
      StopsUnbound m len pos (matchBytes m len pos start3Bytes) := by
    intro h
    have := match3_cases m len pos
    rw [match3, if_pos h] at this
    rcases this with h | h | h
    · exact .inl h
    · exact .inr (.inl h)
    · exact .inr (.inr h.2)
  by_cases h4 : pos ≤ len ∧ len - pos ≥ 4
  · rcases matchBytes_cases m len start4Bytes pos (by simp [start4Bytes]; omega) with
      ⟨g1, g2⟩ | ⟨g1, k, hk, b, g2, g3⟩ | ⟨a, g1, g2, g3, g4⟩
    · refine .inl ⟨4, by simp only [skipLen, if_pos h4, g1], .inl ⟨rfl, by omega, ?_⟩⟩
      exact ⟨g2 0 (by decide), g2 1 (by decide), g2 2 (by decide), g2 3 (by decide)⟩
    · have n4 : ¬ Match4At m len pos := by
        rintro ⟨-, e0, e1, e2, e3⟩
        have hk' : k < 4 := hk
        interval_cases k <;> simp_all [start4Bytes]
      rcases three (by omega) with ⟨t1, t2⟩ | ⟨t1, t2⟩ | ⟨a, t1, t2, t3, t4⟩
      · exact .inl ⟨3, by simp only [skipLen, if_pos h4, g1, t1], .inr (.inl ⟨rfl, t2⟩)⟩
      · exact .inl ⟨0, by simp only [skipLen, if_pos h4, g1, t1], .inr (.inr ⟨rfl, n4, t2⟩)⟩
      · exact .inr ⟨a, t1, t2, t3, by simp only [skipLen, if_pos h4, g1, t4]⟩
    · exact .inr ⟨a, g1, g2, g3, by simp only [skipLen, if_pos h4, g4]⟩
  · have n4 : ¬ Match4At m len pos := fun h => h4 ⟨by have := h.1; omega, by have := h.1; omega⟩
    by_cases h3 : pos ≤ len ∧ len - pos ≥ 3
    · rcases three (by omega) with ⟨t1, t2⟩ | ⟨t1, t2⟩ | ⟨a, t1, t2, t3, t4⟩
      · exact .inl ⟨3, by simp only [skipLen, if_neg h4, if_pos h3, t1], .inr (.inl ⟨rfl, t2⟩)⟩
      · exact .inl ⟨0, by simp only [skipLen, if_neg h4, if_pos h3, t1], .inr (.inr ⟨rfl, n4, t2⟩)⟩
      · exact .inr ⟨a, t1, t2, t3, by simp only [skipLen, if_neg h4, if_pos h3, t4]⟩
    · exact .inl ⟨0, by simp only [skipLen, if_neg h4, if_neg h3],
        .inr (.inr ⟨rfl, n4, fun h => h3 ⟨by have := h.1; omega, by have := h.1; omega⟩⟩)⟩

/-- What the zero run of R110 can do, with enough fuel and a start inside the buffer. -/
theorem skipZeros_cases (m : Memory) (len n p : Nat) (hp : p ≤ len) (hn : len ≤ p + n) :
    (∃ c, skipZeros m len n p = .ok c ∧ IsRunEnd m len p c) ∨
    StopsUnbound m len p (skipZeros m len n p) := by
  induction n generalizing p with
  | zero => exact .inl ⟨p, rfl, le_refl p, hp, fun q h1 h2 => by omega, .inl (by omega)⟩
  | succ n ih =>
    by_cases h : p < len
    · rcases memReadByte_cases m len p with ⟨b, g1, g2, g3⟩ | ⟨g1, g2, g3⟩ | ⟨g1, -⟩
      · by_cases hb : b = 0#8
        · have e : skipZeros m len (n + 1) p = skipZeros m len n (p + 1) := by
            simp only [skipZeros, if_pos h, g3, if_pos hb]
          rw [e]
          rcases ih (p + 1) (by omega) (by omega) with ⟨c, k1, k2, k3, k4, k5⟩ | ⟨a, k1, k2, k3, k4⟩
          · refine .inl ⟨c, k1, by omega, k3, fun q h1 h2 => ?_, k5⟩
            rcases Nat.eq_or_lt_of_le h1 with rfl | hlt
            · rw [g2, hb]
            · exact k4 q hlt h2
          · exact .inr ⟨a, by omega, k2, k3, k4⟩
        · exact .inl ⟨p, by simp only [skipZeros, if_pos h, g3, if_neg hb], le_refl p, hp,
            fun q h1 h2 => by omega, .inr ⟨b, g2, hb⟩⟩
      · exact .inr ⟨p, le_refl p, g1, g2, by simp only [skipZeros, if_pos h, g3]⟩
      · omega
    · exact .inl ⟨p, by simp only [skipZeros, if_neg h], le_refl p, hp,
        fun q h1 h2 => by omega, .inl (by omega)⟩

/-- What the start of a unit can be (R110). -/
theorem unitStart_cases (m : Memory) (len r : Nat) (h : r + 3 ≤ len) :
    (∃ c, unitStart m len r = .ok c ∧ IsRunEnd m len (r + 3) c) ∨
    StopsUnbound m len (r + 3) (unitStart m len r) :=
  skipZeros_cases m len (len - (r + 3)) (r + 3) h (by omega)

/-- Over a buffer bound up to LEN the zero run ends. -/
theorem unitStart_of_boundTo {m : Memory} {len r : Nat} (hm : m.boundTo len) (h : r + 3 ≤ len) :
    ∃ c, unitStart m len r = .ok c ∧ IsRunEnd m len (r + 3) c := by
  rcases unitStart_cases m len r h with g | g
  · exact g
  · exact absurd hm g.not_boundTo

end Sys2Proof.Machine
end

