-- ==== Sys2Proof/Laws/Invariant.lean ====
section
/-! SUPPORT. What the parts of the invariant look at: states that agree on those fields agree on the
part. The host's list, the sink and the result registers occur in none of them. -/

namespace Sys2Proof.Machine

variable {s t : State}

theorem AtUnitStart.of_eq (h : AtUnitStart s) (ho : t.opr = s.opr) (hw : t.work = s.work)
    (hb : t.buf = s.buf) : AtUnitStart t := by
  unfold AtUnitStart at *; rw [ho, hw, hb]; exact h

theorem UnitFrame.of_eq (h : UnitFrame s) (ho : t.opr = s.opr) (hw : t.work = s.work)
    (hb : t.buf = s.buf) : UnitFrame t := by
  obtain ⟨h1, h2, h3, h4, h5, h6, h7⟩ := h
  exact ⟨by rw [ho]; exact h1, by rw [hw]; exact h2, by rw [hw]; exact h3, h4.of_eq ho hw hb,
    by rw [ho, hw, hb]; exact h5, by rw [hw]; exact h6, by rw [ho, hw]; exact h7⟩

theorem FragFrame.of_eq (h : FragFrame s) (ho : t.opr = s.opr) (hw : t.work = s.work)
    (hb : t.buf = s.buf) (hf : t.fuType = s.fuType) : FragFrame t := by
  obtain ⟨h1, h2, h3, h4, h5, h6, h7⟩ := h
  exact ⟨h1.of_eq ho hw hb, by rw [ho, hw]; exact h2, by rw [ho, hw]; exact h3,
    by rw [hw]; exact h4, by rw [hw]; exact h5, by rw [hw]; exact h6,
    by rw [hw, hb, hf]; exact h7⟩

theorem PortHolds.of_eq {m : Bool} {fu : Option FuBytes} {off n : Nat} (h : PortHolds s m fu off n)
    (ho : t.opr = s.opr) (hp : t.pk = s.pk) : PortHolds t m fu off n := by
  unfold PortHolds at *; rw [ho, hp]; exact h

theorem PhaseFrame.of_eq (h : PhaseFrame s) (ho : t.opr = s.opr) (hw : t.work = s.work)
    (hb : t.buf = s.buf) (hf : t.fuType = s.fuType) (hp : t.pk = s.pk) (hph : t.ph = s.ph) :
    PhaseFrame t := by
  unfold PhaseFrame at *
  rw [hph]
  cases e : s.ph <;> rw [e] at h
  · trivial
  · rw [ho]; exact h
  · rw [ho, hw, hb]; exact h
  · rw [ho, hw]; exact ⟨h.1, h.2.1, h.2.2.1, h.2.2.2.of_eq ho hw hb⟩
  · rw [ho, hw, hp]; exact ⟨h.1.of_eq ho hw hb, h.2.1, fun g => (h.2.2 g).of_eq ho hp⟩
  · rw [ho, hw]; exact ⟨h.1.of_eq ho hw hb, h.2⟩
  · rw [hw, hp]
    exact ⟨h.1.of_eq ho hw hb hf, h.2.1, h.2.2.1,
      fun g => ⟨(h.2.2.2 g).1, (h.2.2.2 g).2.of_eq ho hp⟩⟩
  · rw [hw, hp]
    exact ⟨h.1.of_eq ho hw hb hf, h.2.1, h.2.2.1, h.2.2.2.1, h.2.2.2.2.1,
      fun g => (h.2.2.2.2.2 g).of_eq ho hp⟩
  · exact h.of_eq ho hw hb
  · trivial

theorem RegistersFit.of_eq (h : RegistersFit s) (hn : t.widths = s.widths) (ho : t.opr = s.opr)
    (hr : t.res = s.res) (hw : t.work = s.work) (hp : t.pk = s.pk) : RegistersFit t := by
  obtain ⟨h1, h2, h3, h4, h5, h6, h7, h8, h9, h10, h11, h12, h13, h14, h15, h16, h17, h18⟩ := h
  constructor <;> simp only [hn, ho, hr, hw, hp] <;> assumption

/-- The invariant does not look at the host's list. -/
theorem Inv.withHost (h : Inv s) (r : List HostEvent) : Inv (s.withHost r) :=
  ⟨h.mem, h.fits.of_eq rfl rfl rfl rfl rfl, h.busy, h.excl, h.port, h.dec, h.param, h.phase.of_eq rfl rfl rfl rfl rfl rfl⟩

/-- The current unit lies inside the buffer. -/
theorem UnitFrame.r1_le (h : UnitFrame s) : s.work.r1 ≤ s.opr.len := by
  rcases h.hit with g | g
  · rw [g]
  · have := g.1; omega

/-- What the unit's first byte is not: no start code begins at it (R113). -/
theorem AtUnitStart.not_matchAt (h : AtUnitStart s) :
    ¬ MatchAt s.buf s.opr.len s.work.cur := by
  rintro ⟨h1, h2, -, -⟩
  rcases h with g | ⟨b, g1, g2⟩
  · rw [g] at h1; omega
  · rw [g1] at h2; exact g2 (Option.some.inj h2)

end Sys2Proof.Machine
end

