-- ==== Sys2Proof/Laws/PerInstr.lean ====
section
/-! SUPPORT. A law per constructor of Instr: the encoding has the kind and the size its row of
spec/opcode_table.json gives it, the op of R53 for a command, the number of bytes for a data format. -/

namespace Sys2Proof.Laws

/-- The `match` of a command row of the table, or the number of bytes of a data-format row. -/
def rowShape : Instr → BitVec 3 ⊕ Nat
  | .scan _ _ => .inl 0
  | .sclen _ _ => .inl 1
  | .hdec _ _ => .inl 2
  | .henc _ _ _ _ => .inl 3
  | .iskey _ => .inl 4
  | .pkt _ _ _ _ => .inl 5
  | .reserved6 => .inl 6
  | .reserved7 => .inl 7
  | .start3 => .inr 3
  | .start4 => .inr 4
  | .unitHdr _ _ _ _ => .inr 2
  | .fuHdr _ _ _ _ _ => .inr 3

/-- The op of a command, the number of bytes of a format. -/
def encodedShape : Encoded → BitVec 3 ⊕ Nat
  | .command c => .inl c.op
  | .stream bytes => .inr bytes.length

/-- The encoding has the row's shape. -/
def EncodeShape.Statement (i : Instr) : Prop := encodedShape (encode i) = rowShape i

theorem EncodeShape.scan (pos len : Nat) : EncodeShape.Statement (.scan pos len) := rfl
theorem EncodeShape.sclen (pos len : Nat) : EncodeShape.Statement (.sclen pos len) := rfl
theorem EncodeShape.hdec (hb0 hb1 : Byte) : EncodeShape.Statement (.hdec hb0 hb1) := rfl
theorem EncodeShape.henc (fin : BitVec 1) (tin : Nat) (lin : BitVec 6) (din : Nat) :
    EncodeShape.Statement (.henc fin tin lin din) := rfl
theorem EncodeShape.iskey (tin : Nat) : EncodeShape.Statement (.iskey tin) := rfl
theorem EncodeShape.pkt (len maxsz : Nat) (ts : Stamp) (ctx : Nat) :
    EncodeShape.Statement (.pkt len maxsz ts ctx) := rfl
theorem EncodeShape.reserved6 : EncodeShape.Statement .reserved6 := rfl
theorem EncodeShape.reserved7 : EncodeShape.Statement .reserved7 := rfl
theorem EncodeShape.start3 : EncodeShape.Statement .start3 := rfl
theorem EncodeShape.start4 : EncodeShape.Statement .start4 := rfl
theorem EncodeShape.unitHdr (f : BitVec 1) (t l : BitVec 6) (d : BitVec 3) :
    EncodeShape.Statement (.unitHdr f t l d) := rfl
theorem EncodeShape.fuHdr (u : BitVec 6) (d : BitVec 3) (sb eb : BitVec 1) (o : BitVec 6) :
    EncodeShape.Statement (.fuHdr u d sb eb o) := rfl

end Sys2Proof.Laws
end

