-- ==== Sys2Proof/Tests/Slice0.lean ====
section
/-! SUPPORT. The model's own tests: ill-formed terms refused, words of the spec decoded, one step of
each operation on vectors of spec/95_test_vectors.md, and for every statement with hypotheses a state
and operands that meet them all. -/

namespace Sys2Proof.Tests

open Sys2Proof.Machine

/-! ### WellFormed -/

/-- S = 1 with E = 1 is never produced (R64). -/
theorem test_wf_refuses_start_and_end : (Instr.fuHdr 49 1 1 1 19).wellFormed Widths.default = false := by decide

/-- The bytes `00 00 01` are a start code, not a fragmentation header. -/
theorem test_wf_refuses_start_code_bytes : (Instr.fuHdr 0 0 0 0 1).wellFormed Widths.default = false := by decide

theorem test_wf_accepts_the_three_forms :
    (Instr.fuHdr 49 1 1 0 19).wellFormed Widths.default = true ∧
    (Instr.fuHdr 49 1 0 0 19).wellFormed Widths.default = true ∧
    (Instr.fuHdr 49 1 0 1 19).wellFormed Widths.default = true := by decide

/-- An operand that does not fit its width is on no port: AW, TW and CTX_W, each one bit over. -/
theorem test_wf_refuses_wide_operands :
    (Instr.scan 4294967296 0).wellFormed Widths.default = false ∧
    (Instr.sclen 0 4294967296).wellFormed Widths.default = false ∧
    (Instr.pkt 0 4294967296 0 0).wellFormed Widths.default = false ∧
    (Instr.pkt 0 0 0 18446744073709551616).wellFormed Widths.default = false ∧
    (Instr.iskey 256).wellFormed Widths.default = false ∧
    (Instr.henc 0 0 0 256).wellFormed Widths.default = false := by decide

/-- The widths are arguments: a block with AW = 4 and TW = 6 takes LEN = 15 and no more. -/
theorem test_wf_other_widths :
    (Instr.scan 0 15).wellFormed { Widths.default with aw := 4, tw := 6 } = true ∧
    (Instr.scan 0 16).wellFormed { Widths.default with aw := 4, tw := 6 } = false ∧
    (Instr.iskey 64).wellFormed { Widths.default with aw := 4, tw := 6 } = false := by decide

/-! ### Decode: words written out from the spec's encodings -/

/-- The op codes of R53, in the order of its table. -/
theorem test_decode_ops :
    (decodeTableWord 8 0b000, decodeTableWord 8 0b001, decodeTableWord 8 0b010,
      decodeTableWord 8 0b011) =
    (some (.scan 0 0), some (.sclen 0 0), some (.hdec 0 0), some (.henc 0 0 0 0)) ∧
    (decodeTableWord 8 0b100, decodeTableWord 8 0b101, decodeTableWord 8 0b110,
      decodeTableWord 8 0b111) =
    (some (.iskey 0), some (.pkt 0 0 0 0), some .reserved6, some .reserved7) := by decide

/-- A command record as Program A of the vectors writes it: {op=0, POS=4, LEN=13}. -/
theorem test_decode_scan_record :
    decode (.command { Command.zero with op := 0, pos := 4, len := 13, tin := 99 }) =
      .ok (.scan 4 13) := by rfl

/-- {op=3, FIN=0, TIN=85, LIN=33, DIN=15} of Program C. -/
theorem test_decode_henc_record :
    decode (.command { Command.zero with op := 3, tin := 85, lin := 33, din := 15 }) =
      .ok (.henc 0 85 33 15) := by rfl

/-- {op=5, LEN=16, MAXSZ=5, TS=.., CTX=..} of Program B. -/
theorem test_decode_pkt_record :
    decode (.command { Command.zero with
      op := 5, len := 16, maxsz := 5, ts := 0x1122334455667788, ctx := 0xC0FFEE }) =
      .ok (.pkt 16 5 0x1122334455667788 0xC0FFEE) := by rfl

/-- `00000000 00000000 00000001` and its 4-byte form (R56), as table words and as bytes. -/
theorem test_decode_start_codes :
    decodeTableWord 24 0b000000000000000000000001 = some .start3 ∧
    decodeTableWord 32 0b00000000000000000000000000000001 = some .start4 ∧
    decodeStream [0x00, 0x00, 0x01] = .ok .start3 ∧
    decodeStream [0x00, 0x00, 0x00, 0x01] = .ok .start4 := by
  refine ⟨?_, ?_, ?_, ?_⟩ <;> rfl

/-- `26 01` is `0 010011 0 | 00000 001`: F 0, type 19, layer 0, tid 1 (H1); `2B 0F` is H14. -/
theorem test_decode_unit_headers :
    decodeTableWord 16 0b0010011000000001 = some (.unitHdr 0 19 0 1) ∧
    decodeTableWord 16 0b0010101100001111 = some (.unitHdr 0 21 33 7) := by
  refine ⟨?_, ?_⟩ <;> decide

/-- `62 01 93` is `0 110001 0 | 00000 001 | 1 0 010011` (X2); `62 07 55` the last fragment of P26. -/
theorem test_decode_fu_headers :
    decodeTableWord 24 0b011000100000000110010011 = some (.fuHdr 49 1 1 0 19) ∧
    decodeTableWord 24 0b011000100000011101010101 = some (.fuHdr 49 7 0 1 21) := by
  refine ⟨?_, ?_⟩ <;> decide

/-- Bytes of no format are rejected by name. -/
theorem test_decode_rejects :
    decodeStream [0xAA] = .error .noFormat ∧ decodeStream [0x80, 0x00, 0x00] = .error .noFormat ∧
    decodeStream [0x00, 0x00, 0x01, 0x26] = .error .noFormat := by
  refine ⟨?_, ?_, ?_⟩ <;> rfl

/-! ### One step on the spec's vectors -/

/-- The bytes at offsets 0, 1, 2, ... -/
def cellsFrom : Nat → List Byte → Memory
  | _, [] => []
  | a, b :: bs => (a, b) :: cellsFrom (a + 1) bs

/-- The state after reset with a buffer bound. -/
def withBuf (bytes : List Byte) : State := { State.reset with buf := cellsFrom 0 bytes }

/-- The next state of an outcome, or the state after reset. -/
def nextOf : Host.Outcome State Fault Refusal → State
  | .next t => t
  | _ => State.reset

/-- S8: the 3-byte core of a 4-byte start code is reported. -/
theorem test_scan_reports_core :
    readReg (nextOf (exec (.scan 0 4) (withBuf [0, 0, 0, 1]))) .rpos = some 1 := by decide

/-- S7: POS > LEN gives LEN. -/
theorem test_scan_beyond_end :
    readReg (nextOf (exec (.scan 5 3) (withBuf [0, 0, 1]))) .rpos = some 3 := by decide

/-- L8 and L9: 4 at the 4-byte form, 3 one byte on. -/
theorem test_sclen_both_forms :
    readReg (nextOf (exec (.sclen 1 5) (withBuf [0xAA, 0, 0, 0, 1]))) .skip = some 4 ∧
    readReg (nextOf (exec (.sclen 2 5) (withBuf [0xAA, 0, 0, 0, 1]))) .skip = some 3 := by decide

/-- H16: `A6 00`. -/
theorem test_hdec_forbidden_bit :
    (nextOf (exec (.hdec 0xA6 0x00) State.reset)).res.fout = 1 ∧
    (nextOf (exec (.hdec 0xA6 0x00) State.reset)).res.tout = 19 ∧
    (nextOf (exec (.hdec 0xA6 0x00) State.reset)).res.lout = 0 ∧
    (nextOf (exec (.hdec 0xA6 0x00) State.reset)).res.dout = 0 := by decide

/-- E2: 83 and 9 are truncated to 19 and 1; E8: the layer is split. -/
theorem test_henc_masks_and_splits :
    (nextOf (exec (.henc 0 83 0 9) State.reset)).res.eb0 = 0x26 ∧
    (nextOf (exec (.henc 0 83 0 9) State.reset)).res.eb1 = 0x01 ∧
    (nextOf (exec (.henc 0 1 33 2) State.reset)).res.eb0 = 0x03 ∧
    (nextOf (exec (.henc 0 1 33 2) State.reset)).res.eb1 = 0x0A := by decide

/-- The classifier table: 15, 16, 21, 22, 80. -/
theorem test_iskey_table :
    (nextOf (exec (.iskey 15) State.reset)).res.key = false ∧
    (nextOf (exec (.iskey 16) State.reset)).res.key = true ∧
    (nextOf (exec (.iskey 21) State.reset)).res.key = true ∧
    (nextOf (exec (.iskey 22) State.reset)).res.key = false ∧
    (nextOf (exec (.iskey 80) State.reset)).res.key = false := by decide

/-- Program E: PKT with MAXSZ = 3 raises PARAM and goes to FINISH. -/
theorem test_pkt_small_maxsz :
    (nextOf (exec (.pkt 7 3 0 0) State.reset)).result = 4 ∧
    (nextOf (exec (.pkt 7 3 0 0) State.reset)).ph = .finish := by decide

/-- Program B, step 1. -/
theorem test_pkt_accepted :
    (nextOf (exec (.pkt 16 5 7 9) State.reset)).status = 1 ∧
    (nextOf (exec (.pkt 16 5 7 9) State.reset)).ph = .first := by decide

/-- Program E: the reserved commands. -/
theorem test_reserved_param :
    (nextOf (exec .reserved6 State.reset)).result = 4 ∧
    (nextOf (exec .reserved7 State.reset)).status = 2 := by decide

/-- Formats laid one after the other stand in stream order. -/
theorem test_formats_laid_in_order :
    (nextOf (exec (.unitHdr 0 19 0 1) (nextOf (exec .start3 State.reset)))).buf =
      [(0, 0), (1, 0), (2, 1), (3, 0x26), (4, 0x01)] ∧
    (nextOf (exec (.fuHdr 49 1 1 0 19) State.reset)).buf = [(0, 0x62), (1, 0x01), (2, 0x93)] ∧
    (nextOf (exec .start4 State.reset)).buf = [(0, 0), (1, 0), (2, 0), (3, 1)] := by decide

/-- X5: values of the zero-byte test. -/
theorem test_haszero_values :
    haszero 0x11223344 = false ∧ haszero 0x11003344 = true ∧ haszero 0x80808080 = false ∧
    haszero 0xFFFFFF00 = true ∧ haszero 0x01000100 = true := by decide

/-- U9: a LEN longer than the bound buffer stops with the unbound byte. -/
theorem test_scan_unbound_byte :
    exec (.scan 0 4) (withBuf [0, 0]) = .fault (.unboundByte 2) := by rfl

/-- The sink's code is one bit wide by default and collapses to RESULT.SINK at any width. -/
theorem test_sink_codes :
    Widths.default.answer 3 = 1 ∧ Widths.default.answer 2 = 0 ∧
    { Widths.default with sinkw := 2 }.answer 2 = 2 ∧ (raiseSink 2 State.reset).result = 1 ∧
    (raiseSink 0 State.reset).result = 0 := by decide

/-! ### Sample states: vector P8, one state per phase -/

/-- The buffer of P8: `00 00 01 26 01 AA BB CC`. -/
def p8 : Memory := cellsFrom 0 [0, 0, 1, 0x26, 1, 0xAA, 0xBB, 0xCC]

/-- P8 in progress: MAXSZ = 4, the unit at 3 .. 8. -/
def atPhase (p : Phase) : State :=
  { State.reset with
    opr := { Operands.reset with op := 5, len := 8, maxsz := 4, ts := 7, ctx := 9 }
    status := 1, ph := p, buf := p8
    work := { Working.reset with r := 0, cur := 3, r1 := 8, ulen := 5, mark := true }
    sink := { answers := [1, 0, 0, 0, 0, 0, 0, 0, 0, 0]
              received := [] } }

/-- The same with MAXSZ = 5, so that the unit goes whole (P7). -/
def wholePhase (p : Phase) : State :=
  { atPhase p with opr := { (atPhase p).opr with maxsz := 5 } }

/-- P8 with the first fragment due. -/
def fragState : State :=
  { atPhase .fragLoop with
    work := { (atPhase .fragLoop).work with
      flen := 1, fu0 := 0x62, fu1 := 0x01, fu2 := 0x93, off := 5, rem := 3 } }

/-- P8 with the last fragment due. -/
def lastState : State :=
  { atPhase .fragLast with
    work := { (atPhase .fragLast).work with
      flen := 1, fu0 := 0x62, fu1 := 0x01, fu2 := 0x13, off := 7, rem := 1 } }

/-- A state with a packet on the port. -/
def withPacket (s : State) : State := { s with pk := { s.pk with valid := true } }

/-- The buffer `00 00 01` whose unit is empty (P21), in phase SINGLE. -/
def emptyUnitState : State :=
  { State.reset with
    opr := { Operands.reset with op := 5, len := 3, maxsz := 4 }
    status := 1, ph := .single, buf := cellsFrom 0 [0, 0, 1]
    work := { Working.reset with r := 0, cur := 3, r1 := 3, ulen := 0, mark := true } }

theorem p8_bound : p8.boundTo 8 := boundTo_of_all (by decide)

theorem sample_unit (p : Phase) : UnitFrame (atPhase p) :=
  ⟨show 4 ≤ 4 by decide, show 0 + 3 ≤ 3 by decide, show 3 ≤ 8 by decide,
    .inr ⟨0x26, rfl, by decide⟩, .inl rfl, rfl, rfl⟩

/-- A packet not presented has nothing to hold. -/
theorem not_valid {b : Bool} {P : Prop} (h : b = false) : b = true → P :=
  fun g => absurd (h.symm.trans g) (by decide)

/-- Every parametric register fits, as a check that computes. -/
def fitsCheck (s : State) : Bool :=
  [s.opr.pos, s.opr.len, s.opr.maxsz, s.res.rpos, s.work.r, s.work.cur, s.work.r1, s.work.ulen,
    s.work.flen, s.work.off, s.work.rem, s.pk.off, s.pk.len].all (fitsBits s.widths.aw) &&
  [s.opr.ctx, s.pk.ctx].all (fitsBits s.widths.ctxw) &&
  [s.opr.tin, s.opr.din].all (fitsBits s.widths.tw) && fitsBits s.widths.sinkw s.pk.s

theorem fits_of {s : State} (h : fitsCheck s = true) : RegistersFit s := by
  simp only [fitsCheck, fitsBits, List.all_cons, List.all_nil, Bool.and_eq_true,
    decide_eq_true_eq, Bool.and_true] at h
  obtain ⟨⟨⟨⟨a, b, c, d, e, f, g, i, j, k, l, m, n⟩, o, p⟩, q, r⟩, t⟩ := h
  exact ⟨a, b, c, o, q, r, d, e, f, g, i, j, k, l, m, n, p, t⟩

theorem sample_first_inv : Inv (atPhase .first) :=
  ⟨by decide, fits_of (by decide), by decide, by decide, by decide, by decide, by decide,
    show 4 ≤ 4 by decide⟩

theorem sample_skip_inv : Inv (atPhase .skip) :=
  ⟨by decide, fits_of (by decide), by decide, by decide, by decide, by decide, by decide,
    show 4 ≤ 4 by decide, show 0 + 2 < 8 by decide, rfl, rfl, rfl⟩

theorem sample_fragInit_inv : Inv (atPhase .fragInit) :=
  ⟨by decide, fits_of (by decide), by decide, by decide, by decide, by decide, by decide,
    sample_unit .fragInit, by decide⟩

theorem sample_frag (s : State) (hu : UnitFrame s) (hl : s.opr.maxsz = 4) (hw : s.work.ulen = 5)
    (hb : s.buf = p8) (hc : s.work.cur = 3) (hr : s.work.r1 = 8) (hf : s.work.flen = 1)
    (h0 : s.work.fu0 = 0x62) (h1 : s.work.fu1 = 0x01) (h2 : s.work.fu2.setWidth 6 = 19#6)
    (ht : s.fuType = 49) (ho : 5 ≤ s.work.off) (ho' : s.work.off + s.work.rem = 8)
    (hm : 1 ≤ s.work.rem) : FragFrame s :=
  ⟨hu, by rw [hl, hw]; decide, by rw [hl, hf], by rw [hc]; exact ho,
    by rw [hr]; exact ho', hm,
    ⟨0x26, 0x01, by rw [hb, hc]; rfl, by rw [hb, hc]; rfl, by rw [h0, ht]; decide,
      by rw [h1]; decide, by rw [h2]; decide⟩⟩

theorem sample_fragLoop_inv : Inv fragState :=
  ⟨by decide, fits_of (by decide), by decide, by decide, by decide, by decide, by decide,
    sample_frag _ ⟨by decide, by decide, by decide, .inr ⟨0x26, rfl, by decide⟩, .inl rfl,
      by decide, rfl⟩ rfl rfl rfl rfl rfl rfl rfl rfl (by decide) rfl (by decide) (by decide)
      (by decide),
    by decide, by decide, not_valid rfl⟩

theorem sample_fragLast_inv : Inv lastState :=
  ⟨by decide, fits_of (by decide), by decide, by decide, by decide, by decide, by decide,
    sample_frag _ ⟨by decide, by decide, by decide, .inr ⟨0x26, rfl, by decide⟩, .inl rfl,
      by decide, rfl⟩ rfl rfl rfl rfl rfl rfl rfl rfl (by decide) rfl (by decide) (by decide)
      (by decide),
    by decide, by decide, by decide, by decide, not_valid rfl⟩

theorem sample_single_inv : Inv (wholePhase .single) :=
  ⟨by decide, fits_of (by decide), by decide, by decide, by decide, by decide, by decide,
    ⟨by decide, by decide, by decide, .inr ⟨0x26, rfl, by decide⟩, .inl rfl, by decide, rfl⟩,
    by decide, not_valid rfl⟩

theorem sample_empty_inv : Inv emptyUnitState :=
  ⟨by decide, fits_of (by decide), by decide, by decide, by decide, by decide, by decide,
    ⟨by decide, by decide, by decide, .inl rfl, .inl rfl, by decide, rfl⟩,
    by decide, not_valid rfl⟩

/-! ### Witnesses: for each statement with hypotheses, states and operands that meet all of them -/

/-- One instruction of each row, at a value the encoding admits. -/
def oneOfEach : List Instr :=
  [.scan 4294967295 0, .sclen 0 4294967295, .hdec 255 0, .henc 1 255 63 255, .iskey 255,
   .pkt 4294967295 0 1 1, .reserved6, .reserved7, .start3, .start4, .unitHdr 1 63 63 7,
   .fuHdr 63 7 0 1 63]

theorem test_witness_DecodeInvertsEncode : oneOfEach.all (Instr.wellFormed Widths.default) = true := by decide

theorem test_witness_EncodeInvertsStreamDecode :
    decodeStream [0x62, 0x07, 0x55] = .ok (.fuHdr 49 7 0 1 21) ∧
    decodeStream [0xFF, 0xFF] = .ok (.unitHdr 1 63 63 7) := by
  refine ⟨?_, ?_⟩ <;> rfl

theorem test_witness_CommandFormatIsFixedByOp :
    ∀ k : BitVec 3, ∃ c : Command, c.op = k ∧ c.pos = 4294967295 :=
  fun k => ⟨{ Command.zero with op := k, pos := 4294967295 }, rfl, rfl⟩

theorem test_witness_UnitHeaderBitPositions :
    (0xFFFF : Nat) = (0xFF#8).toNat * 256 + (0xFF#8).toNat := by decide

theorem test_witness_HdecInvertsHencUpToMasks :
    hdecFn (hencFn 0 63 0 7).1 (hencFn 0 63 0 7).2 = ⟨0, 63, 0, 7⟩ ∧
    hdecFn (hencFn 0 64 0 8).1 (hencFn 0 64 0 8).2 = ⟨0, 0, 0, 0⟩ := by decide

theorem test_witness_PktHeadersAreFuHdr :
    headerOfBytes 0x26 0x01 = ⟨0, 19, 0, 1⟩ ∧ firstFuBytes 49 0x26 0x01 = ⟨0x62, 0x01, 0x93⟩ := by
  decide

/-- A state with one transaction of the host on its list. -/
def withEvent (e : HostEvent) (s : State) : State := s.withHost [e]

/-- A command with op k. -/
def opCommand (k : BitVec 3) : Command := { Command.zero with op := k }

theorem test_witness_StepRunsDecodedInstruction :
    ((withEvent (.command (opCommand 5) true) State.reset).host = .command (opCommand 5) true :: [] ∧
      (withEvent (.command (opCommand 5) true) State.reset).busy = false ∧
      decode (.command (opCommand 5)) = .ok (.pkt 0 0 0 0)) ∧
    ((withEvent (.stream [0, 0, 1]) State.reset).host = .stream [0, 0, 1] :: [] ∧
      decode (.stream [0, 0, 1]) = .ok .start3) :=
  ⟨⟨rfl, rfl, rfl⟩, rfl, rfl⟩

theorem test_witness_PlacedTableWordRunsNext :
    decodeTableWord 8 7 = some .reserved7 ∧ decodeTableWord 24 1 = some .start3 ∧
    State.reset.status = statusWord false State.reset.done ∧ State.reset.ph = .idle ∧
    State.reset.pk.valid = false := by decide

theorem test_witness_BusyBlockAcceptsNoCommand :
    (atPhase .first).busy = true ∧ isCommand (.iskey 0) = true ∧
    (withEvent (.command (opCommand 0) true) (atPhase .first)).busy = true ∧
    (withEvent (.command (opCommand 0) true) (atPhase .first)).host = [.command (opCommand 0) true] ∧
    (withEvent (.command (opCommand 0) false) (atPhase .first)).busy = true ∧
    (withEvent (.command (opCommand 0) false) (atPhase .first)).host =
      [.command (opCommand 0) false] := by decide

/-- P8's buffer with no operation in progress. -/
def idleState : State := { State.reset with buf := p8, sink := (atPhase .first).sink }

theorem test_witness_ScanFindsLeastStartCode :
    (Instr.scan 4294967295 8).wellFormed idleState.widths = true ∧
    (Instr.scan 0 0).wellFormed idleState.widths = true ∧ idleState.busy = false ∧
    idleState.buf.boundTo 8 ∧ idleState.buf.boundTo 0 :=
  ⟨by decide, by decide, rfl, p8_bound, fun _ h => absurd h (Nat.not_lt_zero _)⟩

theorem test_witness_SclenReportsStartCodeLength :
    (Instr.sclen 0 8).wellFormed idleState.widths = true ∧
    (Instr.sclen 4294967295 3).wellFormed idleState.widths = true ∧ idleState.busy = false ∧
    idleState.buf.boundTo 8 ∧ idleState.buf.boundTo 3 :=
  ⟨by decide, by decide, rfl, p8_bound, fun a h => p8_bound a (Nat.lt_of_lt_of_le h (by decide))⟩

/-- The hypotheses of the statements on HDEC, HENC, ISKEY, PKT's acceptance and the reserved commands,
at the ends of the operands' ranges. -/
theorem test_witness_idle_block :
    idleState.busy = false ∧ State.reset.busy = false ∧
    (Instr.henc 1 255 63 255).wellFormed idleState.widths = true ∧
    (Instr.iskey 255).wellFormed idleState.widths = true ∧
    (Instr.iskey 0).wellFormed idleState.widths = true ∧
    (Instr.pkt 4294967295 3 7 18446744073709551615).wellFormed idleState.widths = true ∧
    (Instr.pkt 0 4294967295 7 9).wellFormed idleState.widths = true := by decide

theorem test_witness_PseudoOperationsExpand :
    idleState.busy = false ∧ (fuhdrOp idleState.fuType 255).wellFormed idleState.widths = true ∧
    (skipscOp 0 8).wellFormed idleState.widths = true ∧
    (nextscLen 8 idleState).wellFormed idleState.widths = true ∧ idleState.buf.boundTo 8 ∧
    MatchAt idleState.buf 8 idleState.res.rpos :=
  ⟨rfl, by decide, by decide, by decide, p8_bound, by decide, by decide, by decide, by decide⟩

theorem test_witness_PktWithSmallMaxszEndsAtOnce :
    idleState.busy = false ∧ 3 ≤ 3 ∧ 0 ≤ 3 ∧
    ∃ t, exec (.pkt 8 3 7 9) idleState = .next t ∧ TakesOwnStep t t :=
  ⟨rfl, by decide, by decide, _, rfl, rfl⟩

theorem test_witness_DataFormatsAreLaidInTheBuffer :
    encode .start4 = .stream [0, 0, 0, 1] ∧ idleState.busy = false ∧
    memTop idleState.buf + [0#8, 0#8, 0#8, 1#8].length ≤ idleState.widths.maxLen ∧
    encode (.unitHdr 0 19 0 1) = .stream [0x26, 0x01] ∧
    encode (.fuHdr 49 1 1 0 19) = .stream [0x62, 0x01, 0x93] ∧
    memTop [((4294967291 : Nat), (0 : Byte))] + 3 = idleState.widths.maxLen := by decide

theorem test_witness_BufferChangeWhileBusyIsRefused :
    (atPhase .first).busy = true ∧ isCommand .start3 = false ∧
    (withEvent (.stream [1]) (atPhase .first)).busy = true ∧
    (withEvent (.bind []) (atPhase .first)).busy = true ∧
    (withEvent (.store 0 [1]) (atPhase .first)).busy = true ∧
    (withEvent (.stream [1]) (atPhase .first)).host = [.stream [1]] ∧
    (withEvent (.bind []) (atPhase .first)).host = [.bind []] ∧
    (withEvent (.store 0 [1]) (atPhase .first)).host = [.store 0 [1]] := by decide

/-- Turns in which the block takes its own step: no transaction, a wait, a command held, a command
withdrawn. -/
theorem test_takesOwnStep_forms :
    TakesOwnStep (atPhase .first) (atPhase .first) ∧
    TakesOwnStep (withEvent .wait (atPhase .first)) (atPhase .first) ∧
    TakesOwnStep (withEvent (.command (opCommand 0) true) (atPhase .first))
      (withEvent (.command (opCommand 0) true) (atPhase .first)) ∧
    TakesOwnStep (withEvent (.command (opCommand 0) false) (atPhase .first)) (atPhase .first) :=
  ⟨rfl, rfl, ⟨by decide, rfl⟩, by decide, rfl⟩

theorem test_witness_PhaseFirstLocatesFirstStartCode :
    TakesOwnStep (withEvent .wait (atPhase .first)) (atPhase .first) ∧ (atPhase .first).ph = .first ∧
    (atPhase .first).buf.boundTo (atPhase .first).opr.len := ⟨rfl, rfl, p8_bound⟩

theorem test_witness_PhaseSkipPassesTheZeroRun :
    TakesOwnStep (withEvent .wait (atPhase .skip)) (atPhase .skip) ∧ (atPhase .skip).ph = .skip ∧
    (atPhase .skip).buf.boundTo (atPhase .skip).opr.len ∧
    (atPhase .skip).work.r + 3 ≤ (atPhase .skip).opr.len :=
  ⟨rfl, rfl, p8_bound, by decide⟩

theorem test_witness_PhaseNextDelimitsTheUnit :
    TakesOwnStep (withEvent .wait (atPhase .next)) (atPhase .next) ∧ (atPhase .next).ph = .next ∧
    (atPhase .next).buf.boundTo (atPhase .next).opr.len ∧
    (atPhase .next).work.cur ≤ (atPhase .next).opr.len :=
  ⟨rfl, rfl, p8_bound, by decide⟩

theorem test_witness_PhaseSingleEmitsTheWholeUnit :
    TakesOwnStep (withEvent .wait (wholePhase .single)) (wholePhase .single) ∧
    TakesOwnStep (withEvent .wait (withPacket (wholePhase .single)))
      (withPacket (wholePhase .single)) ∧
    (wholePhase .single).ph = .single ∧ (wholePhase .single).pk.valid = false ∧
    (withPacket (wholePhase .single)).ph = .single ∧
    (withPacket (wholePhase .single)).pk.valid = true ∧
    (withPacket (wholePhase .single)).sink.answers =
      1 :: (wholePhase .single).sink.answers.drop 1 := ⟨rfl, rfl, by decide⟩

theorem test_witness_PhaseFragInitBuildsTheHeader :
    TakesOwnStep (withEvent .wait (atPhase .fragInit)) (atPhase .fragInit) ∧
    (atPhase .fragInit).ph = .fragInit ∧ 2 ≤ (atPhase .fragInit).work.ulen ∧
    (atPhase .fragInit).work.cur + 2 ≤ (atPhase .fragInit).opr.len ∧
    (atPhase .fragInit).byteAt (atPhase .fragInit).work.cur = some 0x26 ∧
    (atPhase .fragInit).byteAt ((atPhase .fragInit).work.cur + 1) = some 1 := ⟨rfl, by decide⟩

/-- FRAG_INIT with a unit of one byte, which no run reaches. -/
def shortUnitState : State :=
  { atPhase .fragInit with work := { (atPhase .fragInit).work with r1 := 4, ulen := 1 } }

theorem test_witness_ShortUnitRaisesDecAndIsDropped :
    TakesOwnStep (withEvent .wait shortUnitState) shortUnitState ∧ shortUnitState.ph = .fragInit ∧
    shortUnitState.work.ulen < 2 := ⟨rfl, by decide⟩

theorem test_witness_PhaseFragLoopEmitsNonFinalFragments :
    (TakesOwnStep (withEvent .wait fragState) fragState ∧ fragState.ph = .fragLoop ∧
      fragState.pk.valid = false ∧ fragState.work.flen < fragState.work.rem) ∧
    (∃ s : State, s = { fragState with work := { fragState.work with rem := 1 } } ∧
      TakesOwnStep s s ∧ s.ph = .fragLoop ∧ s.pk.valid = false ∧ s.work.rem ≤ s.work.flen) ∧
    (TakesOwnStep (withEvent .wait (withPacket fragState)) (withPacket fragState) ∧
      (withPacket fragState).ph = .fragLoop ∧ (withPacket fragState).pk.valid = true ∧
      (withPacket fragState).sink.answers = 1 :: fragState.sink.answers.drop 1) :=
  ⟨⟨rfl, by decide⟩, ⟨_, rfl, rfl, by decide⟩, rfl, by decide⟩

theorem test_witness_PhaseFragLastEmitsTheFinalFragment :
    TakesOwnStep (withEvent .wait lastState) lastState ∧
    TakesOwnStep (withEvent .wait (withPacket lastState)) (withPacket lastState) ∧
    lastState.ph = .fragLast ∧ lastState.pk.valid = false ∧
    (withPacket lastState).ph = .fragLast ∧ (withPacket lastState).pk.valid = true ∧
    (withPacket lastState).sink.answers = 1 :: lastState.sink.answers.drop 1 :=
  ⟨rfl, rfl, by decide⟩

theorem test_witness_AdvAndFinishEndTheUnitAndTheOperation :
    TakesOwnStep (withEvent .wait (atPhase .adv)) (atPhase .adv) ∧
    TakesOwnStep (withEvent .wait (atPhase .finish)) (atPhase .finish) ∧
    (atPhase .adv).ph = .adv ∧ (atPhase .finish).ph = .finish := ⟨rfl, rfl, by decide⟩

/-- A state with a packet on the port and a sink that does not answer. -/
def stalled (s : State) : State :=
  { withPacket s with sink := { answers := [], received := [] } }

theorem test_witness_UnansweredPacketStallsTheBlock :
    (stalled (wholePhase .single)).host = [] ∧ (stalled (wholePhase .single)).pk.valid = true ∧
    (stalled (wholePhase .single)).sink.answers = [] ∧
    (stalled (wholePhase .single)).ph = .single ∧ (stalled fragState).ph = .fragLoop ∧
    (stalled lastState).ph = .fragLast ∧
    (stalled lastState).busy = true ∧ quietHost (withEvent .wait (stalled lastState)) = true ∧
    quietHost (withEvent (.command (opCommand 5) true) (stalled lastState)) = true ∧
    quietHost (withEvent (.command (opCommand 5) false) (stalled lastState)) = true := by decide

/-- A stalled block under a wait and a command that is withdrawn and one that stays: the list loses the
first two, nothing else changes (R166, R19). -/
theorem test_stalled_block_drains_the_host :
    core.run 5 ((stalled lastState).withHost
      [.wait, .command (opCommand 5) false, .command (opCommand 0) true, .wait]) =
      .next ((stalled lastState).withHost [.command (opCommand 0) true, .wait]) := rfl

theorem test_witness_PresentedPacketIsHeldUntilOneAnswer :
    ((stalled lastState).pk.valid = true ∧ noReset (stalled lastState) = true ∧
      step (stalled lastState) = .next (stalled lastState)) ∧
    ((withPacket fragState).pk.valid = true ∧ noReset (withPacket fragState) = true ∧
      ∃ t, step (withPacket fragState) = .next t) :=
  ⟨⟨rfl, rfl, rfl⟩, rfl, rfl, _, rfl⟩

theorem test_witness_IdleBlockWaits : idleState.ph = .idle ∧ idleState.host = [] := by decide

theorem test_witness_EveryStepKeepsTheInvariant :
    Inv fragState ∧ ∃ t, step fragState = .next t ∧ t.pk.valid = true :=
  ⟨sample_fragLoop_inv, _, rfl, rfl⟩

theorem test_witness_ResetAbandonsTheOperation :
    (withEvent .reset (withPacket fragState)).host = .reset :: [] := rfl

theorem test_witness_NoReadOutsideTheBuffer : Inv (atPhase .first) ∧ Inv (atPhase .fragInit) :=
  ⟨sample_first_inv, sample_fragInit_inv⟩

theorem test_witness_BusyBlockAlwaysSteps :
    Inv (atPhase .skip) ∧ (atPhase .skip).busy = true ∧ TakesOwnStep (atPhase .skip) (atPhase .skip) ∧
    (atPhase .skip).buf.boundTo (atPhase .skip).opr.len :=
  ⟨sample_skip_inv, by decide, rfl, p8_bound⟩

theorem test_witness_OperationKeepsBufferOperandsAndResults :
    (atPhase .fragInit).busy = true ∧ noReset (atPhase .fragInit) = true ∧
    ∃ t, step (atPhase .fragInit) = .next t := ⟨by decide, rfl, _, rfl⟩

theorem test_witness_ResultBitsAreSticky :
    shortUnitState.busy = true ∧ noReset shortUnitState = true ∧
    ∃ t, step shortUnitState = .next t ∧ t.result = 2 := ⟨by decide, rfl, _, rfl, by decide⟩

theorem test_witness_OperationWritesOnlyItsOwnResults :
    idleState.busy = false ∧
    (∃ t, exec (.scan 0 8) idleState = .next t ∧ readReg t .rpos = some 0) ∧
    (∃ t, exec (.sclen 0 8) idleState = .next t ∧ readReg t .skip = some 3) ∧
    (∃ t, exec (.hdec 0x2B 0x0F) idleState = .next t ∧ readReg t .fout = some 0 ∧
      readReg t .tout = some 21 ∧ readReg t .lout = some 33 ∧ readReg t .dout = some 7) ∧
    (∃ t, exec (.henc 0 21 33 7) idleState = .next t ∧ readReg t .eb0 = some 0x2B ∧
      readReg t .eb1 = some 0x0F) ∧
    (∃ t, exec (.iskey 21) idleState = .next t ∧ readReg t .key = some 1) ∧
    ∃ t, exec (.pkt 8 4 7 9) idleState = .next t ∧ readReg t .key = none :=
  ⟨rfl, ⟨_, rfl, rfl⟩, ⟨_, rfl, rfl⟩, ⟨_, rfl, rfl, rfl, rfl, rfl⟩, ⟨_, rfl, rfl, rfl⟩,
    ⟨_, rfl, rfl⟩, _, rfl, rfl⟩

/-- The idle state after other operations: another RESULT, other registers, packets already sent. -/
def usedState : State :=
  { idleState with
    result := 7, written := ⟨true, true, true, true, true⟩
    work := { idleState.work with r := 9, cur := 9, off := 9 }
    opr := { idleState.opr with len := 2, maxsz := 9 }
    sink := { idleState.sink with received := [(packetView idleState.pk, 1)] } }

theorem test_witness_OperationsAreStatelessAcrossCalls :
    (isCommand (.iskey 21) = true ∧ idleState.busy = false ∧ usedState.busy = false ∧
      idleState.buf = usedState.buf ∧ idleState.widths = usedState.widths ∧
      ∃ t, exec (.iskey 21) idleState = .next t) ∧
    (idleState.pk.valid = false ∧ usedState.pk.valid = false ∧ idleState.host = [] ∧
      usedState.host = [] ∧ idleState.fuType = usedState.fuType ∧
      idleState.sink.answers = usedState.sink.answers ∧ idleState ≠ usedState ∧
      ∃ t u, exec (.pkt 8 4 7 9) idleState = .next t ∧ core.run 7 t = .next u ∧
        u.sink.received.length = 1) :=
  ⟨⟨by decide, rfl, rfl, rfl, rfl, _, rfl⟩, rfl, rfl, rfl, rfl, rfl, rfl, by decide, _, _, rfl, rfl,
    rfl⟩

theorem test_witness_HostStoreReadsBack :
    idleState.busy = false ∧ Memory.wf idleState.widths.maxLen idleState.buf = true ∧
    ((withEvent (.store 4294967294 [7]) idleState).host = .store 4294967294 [7] :: [] ∧
      4294967294 + [(7 : Byte)].length ≤ idleState.widths.maxLen) ∧
    ((withEvent (.bind [1, 2]) idleState).host = .bind [1, 2] :: [] ∧
      [(1 : Byte), 2].length ≤ idleState.widths.maxLen) ∧
    ((withEvent (.stream [0xAA]) idleState).host = .stream [0xAA] :: [] ∧
      decodeStream [0xAA] = .error .noFormat ∧
      memTop idleState.buf + [(0xAA : Byte)].length ≤ idleState.widths.maxLen) :=
  ⟨rfl, by decide, by decide, by decide, rfl, rfl, by decide⟩

theorem test_witness_PresentedPacketFitsAndLiesInItsUnit :
    (Inv fragState ∧ fragState.pk.valid = false ∧
      ∃ t, step fragState = .next t ∧ t.pk.valid = true ∧ t.ph = .fragLoop) ∧
    (Inv (wholePhase .single) ∧ (wholePhase .single).pk.valid = false ∧
      ∃ t, step (wholePhase .single) = .next t ∧ t.pk.valid = true) :=
  ⟨⟨sample_fragLoop_inv, rfl, _, rfl, rfl, rfl⟩, sample_single_inv, rfl, _, rfl, rfl⟩

theorem test_witness_MarkerOnlyOnLastPacketOfLastUnit :
    Inv lastState ∧ lastState.pk.valid = false ∧
    ∃ t, step lastState = .next t ∧ t.pk.valid = true ∧ t.pk.m = true :=
  ⟨sample_fragLast_inv, rfl, _, rfl, rfl, rfl⟩

theorem test_witness_EmptyUnitIsOneMarkedEmptyPacket :
    Inv emptyUnitState ∧ TakesOwnStep emptyUnitState emptyUnitState ∧ emptyUnitState.ph = .single ∧
    emptyUnitState.pk.valid = false ∧ emptyUnitState.work.ulen = 0 :=
  ⟨sample_empty_inv, rfl, rfl, rfl, rfl⟩

theorem test_witness_FragmentedUnitReassembles :
    Inv (atPhase .fragInit) ∧ quietHost (atPhase .fragInit) = true ∧ (atPhase .fragInit).ph = .fragInit ∧
    (atPhase .fragInit).buf.boundTo (atPhase .fragInit).opr.len ∧
    (atPhase .fragInit).byteAt (atPhase .fragInit).work.cur = some 0x26 ∧
    (atPhase .fragInit).byteAt ((atPhase .fragInit).work.cur + 1) = some 1 ∧
    3 = fragmentCount (atPhase .fragInit).work.ulen (atPhase .fragInit).opr.maxsz ∧
    3 ≤ (atPhase .fragInit).sink.answers.length :=
  ⟨sample_fragInit_inv, rfl, rfl, p8_bound, by decide, by decide, by decide, by decide⟩

/-- What P8 asks of PKT. -/
def p8Args : PktArgs := { len := 8, maxsz := 4, ts := 7, ctx := 9, fuType := 49 }

/-- P8 runs and gives three packets, the last one marked. -/
theorem test_p8_runs : ∃ run, packetize p8 p8Args = .ok run ∧ run.packets.length = 3 ∧
    run.packets.map Packet.m = [false, false, true] := ⟨_, rfl, by decide, by decide⟩

theorem test_witness_PhasesRefinePacketize :
    (Instr.pkt 8 4 7 9).wellFormed idleState.widths = true ∧ idleState.busy = false ∧
    idleState.pk.valid = false ∧ quietHost idleState = true ∧
    ∃ run, packetize idleState.buf
        { len := 8, maxsz := 4, ts := 7, ctx := 9, fuType := idleState.fuType } = .ok run ∧
      run.packets.length ≤ idleState.sink.answers.length :=
  ⟨by decide, rfl, rfl, rfl, _, rfl, by decide⟩

theorem test_witness_PktAlwaysCompletes :
    Inv (atPhase .first) ∧ (atPhase .first).busy = true ∧ quietHost (atPhase .first) = true ∧
    (atPhase .first).buf.boundTo (atPhase .first).opr.len ∧
    (atPhase .first).opr.len / 3 + (atPhase .first).opr.len ≤
      (atPhase .first).sink.answers.length :=
  ⟨sample_first_inv, by decide, rfl, p8_bound, by decide⟩

/-- The same state with a sink whose every answer is 0. -/
def quiet (s : State) : State :=
  { s with sink := { answers := s.sink.answers.map fun _ => 0, received := [] } }

theorem test_witness_PacketsDoNotDependOnAnswers :
    blindView (withPacket fragState) = blindView (quiet (withPacket fragState)) ∧
    withPacket fragState ≠ quiet (withPacket fragState) ∧
    ∃ t, core.run 2 (withPacket fragState) = .next t :=
  ⟨by decide, by decide, _, rfl⟩

/-- The buffer `00 00`, which has no start code. -/
def noCode : Memory := cellsFrom 0 [0, 0]

theorem test_witness_PacketizeRaisesNoDecAndNeedsAStartCode :
    (∃ run, packetize p8 p8Args = .ok run) ∧
    (∃ run, packetize noCode { p8Args with len := 2 } = .ok run ∧
      ∀ p, ¬ MatchAt noCode 2 p) ∧
    (∃ run, packetize noCode { p8Args with maxsz := 3 } = .ok run) :=
  ⟨⟨_, rfl⟩, ⟨_, rfl, fun p h => by have := h.1; omega⟩, _, rfl⟩

theorem test_witness_ExactlyTheLastPacketIsMarked :
    ∃ run, packetize p8 p8Args = .ok run ∧ run.packets ≠ [] := ⟨_, rfl, by decide⟩

theorem test_witness_PacketsAreInBufferOrder :
    ∃ run, packetize p8 p8Args = .ok run ∧ run.packets.length = 3 := ⟨_, rfl, by decide⟩

theorem test_witness_PacketCountIsBounded : ∃ run, packetize p8 p8Args = .ok run := ⟨_, rfl⟩

theorem test_witness_ScanResultLaws :
    scan p8 8 0 = .ok 0 ∧ scan p8 8 1 = .ok 8 ∧ scan p8 8 9 = .ok 8 ∧ (0 : Nat) < 8 ∧
    (0 : Nat) ≤ 1 ∧ IsScan p8 8 0 0 :=
  ⟨rfl, rfl, rfl, by decide, by decide,
    .inl ⟨Nat.le_refl 0, ⟨by decide, by decide, by decide, by decide⟩, fun _ _ h => absurd h (by omega)⟩⟩

theorem test_witness_ScanFastEqualsScan : p8.boundTo 8 := p8_bound

theorem test_witness_ResultsDependOnlyOnTheFootprint :
    p8 ≠ memWrite p8 8 5 ∧
    (∀ a, scanFootprint 8 0 a → memRead? p8 a = memRead? (memWrite p8 8 5) a) ∧
    (∀ a, scanFootprint 8 6 a → memRead? p8 a = memRead? [] a) ∧
    (∀ a, sclenFootprint 8 4 a → memRead? p8 a = memRead? (memWrite p8 8 5) a) ∧
    (∀ a, sclenFootprint 8 6 a → memRead? p8 a = memRead? [] a) ∧
    (∀ a, pktFootprint p8Args a → memRead? p8 a = memRead? (memWrite p8 8 5) a) ∧
    (∀ a, pktFootprint { p8Args with maxsz := 3 } a → memRead? p8 a = memRead? [] a) ∧
    idleState.busy = false ∧ ∃ t, exec (.hdec 0x26 1) idleState = .next t := by
  refine ⟨by decide, ?_, fun a h => absurd h.1 (by decide), ?_, fun a h => absurd h.1 (by decide),
    ?_, fun a h => absurd h.1 (by decide), rfl, _, rfl⟩
  · rintro a ⟨-, -, h⟩; interval_cases a <;> rfl
  · rintro a ⟨-, h, -, h'⟩; interval_cases a <;> rfl
  · rintro a ⟨-, h⟩; have h' : a < 8 := h; interval_cases a <;> rfl

end Sys2Proof.Tests
end

