-- ==== Sys2Proof/Proofs/Encoding.lean ====
section
/-! PROOF. The reserved operation codes (spec/30_encoding.md R55). -/

namespace Sys2Proof.Machine

/-- RESULT is 0 at acceptance, so PARAM is its only bit after `raise PARAM` (R19, R141). -/
theorem raiseParam_accept_result (load : Operands → Operands) (s : State) :
    (raiseParam (accept load s)).result = 4#3 := by
  rw [raiseParam_result, accept_result]
  decide

/-- A command that only raises PARAM, whatever it loads: the state it completes in, with everything
but the operands, STATUS, RESULT and PH as before (R19, R28, R141). -/
theorem complete_raiseParam_accept (load : Operands → Operands) (s : State) :
    complete (raiseParam (accept load s)) =
      { s with opr := load s.opr, status := 2, result := 4, ph := .idle } := by
  calc complete (raiseParam (accept load s))
      = { s with
          opr := load s.opr, status := statusWord false true
          result := (raiseParam (accept load s)).result, ph := .idle } := rfl
    _ = _ := by rw [raiseParam_accept_result, statusWord_false_true]; rfl

/-- The shared meaning of the two reserved codes on an idle block (R55). -/
theorem onCommandPort_raiseParam {s : State} (h : s.busy = false) (load : Operands → Operands) :
    onCommandPort load (fun t => .next (complete (raiseParam t))) s =
      .next { s with opr := load s.opr, status := 2, result := 4, ph := .idle } := by
  rw [onCommandPort_idle h, complete_raiseParam_accept]

theorem exec_reserved6 (s : State) :
    exec .reserved6 s =
      onCommandPort (loadNone 6) (fun t => .next (complete (raiseParam t))) s := rfl

theorem exec_reserved7 (s : State) :
    exec .reserved7 s =
      onCommandPort (loadNone 7) (fun t => .next (complete (raiseParam t))) s := rfl

/-- Settles O17: each code is a `loadNone` command that raises PARAM, and `loadNone` writes only OP. -/
theorem reservedOpRaisesParam : Obligations.ReservedOpRaisesParam := by
  intro s hidle
  constructor
  · rw [exec_reserved6, onCommandPort_raiseParam hidle, loadNone]
  · rw [exec_reserved7, onCommandPort_raiseParam hidle, loadNone]

end Sys2Proof.Machine
end

