-- ==== Sys2Proof/Proofs/HeaderCodec.lean ====
section
/-! PROOF. The unit-header codec (spec/41_header_codec.md): the field assembly as arithmetic, the round
trip of R96, and the completion of HDEC and HENC (R92, R95). -/

namespace Sys2Proof

/-! ### Field assembly as arithmetic (R91, R94) -/

/-- Placing a field above another that fits below it is addition, and the shift drops what does not fit
the word: what every packed byte of the codec comes down to. -/
theorem toNat_shiftLeft_or {w k : Nat} {a b : BitVec w} (hk : k ≤ w) (hb : b.toNat < 2 ^ k) :
    (a <<< k ||| b).toNat = a.toNat % 2 ^ (w - k) * 2 ^ k + b.toNat := by
  have hpow : 2 ^ w = 2 ^ (w - k) * 2 ^ k := by rw [← Nat.pow_add, Nat.sub_add_cancel hk]
  rw [BitVec.toNat_or, BitVec.toNat_shiftLeft, Nat.shiftLeft_eq, hpow, Nat.mul_mod_mul_right,
    ← Nat.shiftLeft_eq, Nat.shiftLeft_add_eq_or_of_lt hb]

/-- A right shift is a division. -/
theorem toNat_ushiftRight_eq_div {w : Nat} (a : BitVec w) (k : Nat) :
    (a >>> k).toNat = a.toNat / 2 ^ k := by
  rw [BitVec.toNat_ushiftRight, Nat.shiftRight_eq_div_pow]

theorem headerOfBytes_f_toNat (b0 b1 : Byte) :
    (headerOfBytes b0 b1).f.toNat = b0.toNat / 128 := by
  simp only [headerOfBytes, BitVec.toNat_setWidth, toNat_ushiftRight_eq_div]
  omega

theorem headerOfBytes_t_toNat (b0 b1 : Byte) :
    (headerOfBytes b0 b1).t.toNat = b0.toNat / 2 % 64 := by
  simp only [headerOfBytes, BitVec.toNat_setWidth, toNat_ushiftRight_eq_div, Nat.pow_one,
    Nat.reducePow]

/-- The layer is split over the bytes: byte 0 has its top bit, byte 1 the other five. -/
theorem headerOfBytes_l_toNat (b0 b1 : Byte) :
    (headerOfBytes b0 b1).l.toNat = b0.toNat % 2 * 32 + b1.toNat / 8 := by
  have htop : (b0 &&& 1#8).toNat = b0.toNat % 2 := Nat.and_one_is_mod _
  have hlow : (b1 >>> 3).toNat = b1.toNat / 8 := toNat_ushiftRight_eq_div b1 3
  have hjoin : ((b0 &&& 1#8) <<< 5 ||| b1 >>> 3).toNat = b0.toNat % 2 * 32 + b1.toNat / 8 := by
    rw [toNat_shiftLeft_or (by decide) (by omega), htop, hlow]
    omega
  simp only [headerOfBytes, BitVec.toNat_setWidth, hjoin]
  omega

theorem headerOfBytes_d_toNat (b0 b1 : Byte) :
    (headerOfBytes b0 b1).d.toNat = b1.toNat % 8 := by
  simp only [headerOfBytes, BitVec.toNat_setWidth, Nat.reducePow]

theorem headerByte0_toNat (h : UnitHeader) :
    (headerByte0 h).toNat = h.f.toNat * 128 + h.t.toNat * 2 + h.l.toNat / 32 := by
  have hf : (h.f.setWidth 8).toNat = h.f.toNat := BitVec.toNat_setWidth_of_le (by decide)
  have ht : (h.t.setWidth 8).toNat = h.t.toNat := BitVec.toNat_setWidth_of_le (by decide)
  have hl : (h.l.setWidth 8 >>> 5).toNat = h.l.toNat / 32 := by
    rw [toNat_ushiftRight_eq_div, BitVec.toNat_setWidth_of_le (by decide)]
    rfl
  have hlow : (h.t.setWidth 8 <<< 1 ||| h.l.setWidth 8 >>> 5).toNat =
      h.t.toNat * 2 + h.l.toNat / 32 := by
    rw [toNat_shiftLeft_or (by decide) (by omega), ht, hl]
    omega
  rw [headerByte0, BitVec.or_assoc, toNat_shiftLeft_or (by decide) (by omega), hf, hlow]
  omega

/-- The shift drops the layer's top bit, which byte 0 has. -/
theorem headerByte1_toNat (h : UnitHeader) :
    (headerByte1 h).toNat = h.l.toNat % 32 * 8 + h.d.toNat := by
  have hl : (h.l.setWidth 8).toNat = h.l.toNat := BitVec.toNat_setWidth_of_le (by decide)
  have hd : (h.d.setWidth 8).toNat = h.d.toNat := BitVec.toNat_setWidth_of_le (by decide)
  rw [headerByte1, toNat_shiftLeft_or (by decide) (by omega), hl, hd]
  rfl

/-! ### Bytes back from the fields read out of them (R96) -/

theorem headerByte0_headerOfBytes (b0 b1 : Byte) : headerByte0 (headerOfBytes b0 b1) = b0 := by
  apply BitVec.eq_of_toNat_eq
  rw [headerByte0_toNat, headerOfBytes_f_toNat, headerOfBytes_t_toNat, headerOfBytes_l_toNat]
  omega

theorem headerByte1_headerOfBytes (b0 b1 : Byte) : headerByte1 (headerOfBytes b0 b1) = b1 := by
  apply BitVec.eq_of_toNat_eq
  rw [headerByte1_toNat, headerOfBytes_l_toNat, headerOfBytes_d_toNat]
  omega

namespace Machine

/-- HEnc of the four fields of a header, each at its own width: the masks do nothing (R94). -/
theorem hencFn_fields (h : UnitHeader) :
    hencFn h.f h.t.toNat h.l h.d.toNat = (headerByte0 h, headerByte1 h) := by
  rw [hencFn, maskHeader_toNat]

/-- Settles O6: both bytes come back from the header they were read into. -/
theorem hencInvertsHdec : Obligations.HencInvertsHdec := by
  intro b0 b1
  rw [hencFn_fields, hdecFn, headerByte0_headerOfBytes, headerByte1_headerOfBytes]

/-! ### HDec and HEnc by the arithmetic of R91 and R94 -/

theorem hdecFn_eq (b0 b1 : Byte) :
    hdecFn b0 b1 =
      { f := BitVec.ofNat 1 (b0.toNat / 128)
        t := BitVec.ofNat 6 (b0.toNat / 2 % 64)
        l := BitVec.ofNat 6 (b0.toNat % 2 * 32 + b1.toNat / 8)
        d := BitVec.ofNat 3 (b1.toNat % 8) } := by
  rw [← headerOfBytes_f_toNat b0 b1, ← headerOfBytes_t_toNat b0 b1, ← headerOfBytes_l_toNat b0 b1,
    ← headerOfBytes_d_toNat b0 b1]
  simp only [BitVec.ofNat_toNat, BitVec.setWidth_eq, hdecFn]

theorem hencFn_eq (f : BitVec 1) (t : Nat) (l : BitVec 6) (d : Nat) :
    hencFn f t l d =
      (BitVec.ofNat 8 (f.toNat * 128 + t % 64 * 2 + l.toNat / 32),
        BitVec.ofNat 8 (l.toNat % 32 * 8 + d % 8)) := by
  have ht : (maskHeader f t l d).t.toNat = t % 64 := BitVec.toNat_ofNat t 6
  have hd : (maskHeader f t l d).d.toNat = d % 8 := BitVec.toNat_ofNat d 3
  have h0 : (headerByte0 (maskHeader f t l d)).toNat = f.toNat * 128 + t % 64 * 2 + l.toNat / 32 := by
    rw [headerByte0_toNat, ht, maskHeader]
  have h1 : (headerByte1 (maskHeader f t l d)).toNat = l.toNat % 32 * 8 + d % 8 := by
    rw [headerByte1_toNat, hd, maskHeader]
  rw [hencFn, ← h0, ← h1]
  simp only [BitVec.ofNat_toNat, BitVec.setWidth_eq]

/-! ### The state each command completes in (R19, R28) -/

theorem exec_hdec (b0 b1 : Byte) (s : State) :
    exec (.hdec b0 b1) s = onCommandPort (loadD 2 b0 b1) (fun t =>
      .next (complete (writeHeader (hdecFn t.opr.hb0 t.opr.hb1) t))) s := rfl

theorem exec_henc (f : BitVec 1) (t : Nat) (l : BitVec 6) (d : Nat) (s : State) :
    exec (.henc f t l d) s = onCommandPort (loadE s.widths 3 f t l d) (fun t =>
      .next (complete (writeBytes (hencFn t.opr.fin t.opr.tin t.opr.lin t.opr.din) t))) s := rfl

/-- An operand that fits its wires is carried whole. -/
theorem typ_of_fits {w : Widths} {n : Nat} (h : fitsBits w.tw n = true) : w.typ n = n :=
  Nat.mod_eq_of_lt (of_decide_eq_true h)

/-- `loadE` with operands that fit their wires (R54). -/
theorem loadE_of_fits {w : Widths} {t d : Nat} (ht : fitsBits w.tw t = true)
    (hd : fitsBits w.tw d = true) (op : BitVec 3) (f : BitVec 1) (l : BitVec 6) (r : Operands) :
    loadE w op f t l d r = { r with op := op, fin := f, tin := t, lin := l, din := d } := by
  rw [loadE, typ_of_fits ht, typ_of_fits hd]

/-- A command that only writes the header fields, whatever it loads. -/
theorem complete_writeHeader_accept (load : Operands → Operands) (h : UnitHeader) (s : State) :
    complete (writeHeader h (accept load s)) =
      { s with
        opr := load s.opr
        res := { s.res with fout := h.f, tout := h.t, lout := h.l, dout := h.d }
        written := { s.written with hdec := true }
        status := 2, result := 0, ph := .idle } := rfl

/-- A command that only writes the header bytes, whatever it loads. -/
theorem complete_writeBytes_accept (load : Operands → Operands) (b : Byte × Byte) (s : State) :
    complete (writeBytes b (accept load s)) =
      { s with
        opr := load s.opr
        res := { s.res with eb0 := b.1, eb1 := b.2 }
        written := { s.written with henc := true }
        status := 2, result := 0, ph := .idle } := rfl

/-- Settles O14: HDEC runs on the bytes it loads, and `hdecFn_eq` gives its fields. -/
theorem hdecWritesTheFourFields : Obligations.HdecWritesTheFourFields := by
  intro b0 b1 s hidle
  rw [exec_hdec, onCommandPort_idle hidle, complete_writeHeader_accept, accept_opr, loadD, hdecFn_eq]

/-- Settles O15: the operands fit their wires, so HENC runs on them as given, and `hencFn_eq` gives its
bytes. -/
theorem hencWritesTheTwoBytes : Obligations.HencWritesTheTwoBytes := by
  intro f t l d s hwf hidle
  obtain ⟨ht, hd⟩ : fitsBits s.widths.tw t = true ∧ fitsBits s.widths.tw d = true :=
    Bool.and_eq_true_iff.1 hwf
  rw [exec_henc, onCommandPort_idle hidle, complete_writeBytes_accept, accept_opr,
    loadE_of_fits ht hd, hencFn_eq]

end Machine
end Sys2Proof
end

