-- ==== Sys2Proof/Proofs/Classifier.lean ====
section
/-! PROOF. The keyframe classifier (spec/42_classifier.md): the range of R102 as its six values, and the
completion of ISKEY. -/

namespace Sys2Proof.Machine

theorem isKey_iff (t : Nat) : isKey t = true ↔ 16 ≤ t ∧ t ≤ 21 := by
  rw [isKey, Bool.and_eq_true_iff, decide_eq_true_iff, decide_eq_true_iff]
  rfl

/-- The range from 16 to 21 has exactly six values (R102). -/
theorem isKey_eq (t : Nat) :
    isKey t = (t == 16 || t == 17 || t == 18 || t == 19 || t == 20 || t == 21) := by
  rw [Bool.eq_iff_iff, isKey_iff]
  simp only [Bool.or_eq_true, beq_iff_eq]
  omega

theorem exec_iskey (t : Nat) (s : State) :
    exec (.iskey t) s = onCommandPort (loadK s.widths 4 t) (fun u =>
      .next (complete (writeKey (isKey u.opr.tin) u))) s := rfl

/-- `loadK` with an operand that fits its wires: TIN is the whole value, not masked (R54, R101). -/
theorem loadK_of_fits {w : Widths} {t : Nat} (ht : fitsBits w.tw t = true) (op : BitVec 3)
    (r : Operands) : loadK w op t r = { r with op := op, tin := t } := by
  rw [loadK, typ_of_fits ht]

/-- A command that only writes KEY, whatever it loads (R19, R28). -/
theorem complete_writeKey_accept (load : Operands → Operands) (k : Bool) (s : State) :
    complete (writeKey k (accept load s)) =
      { s with
        opr := load s.opr
        res := { s.res with key := k }
        written := { s.written with iskey := true }
        status := 2, result := 0, ph := .idle } := rfl

/-- Settles O16: TIN fits its wires, so ISKEY classifies the operand as given, and `isKey_eq` lists the
values of the range. -/
theorem iskeyIsTheRange16To21 : Obligations.IskeyIsTheRange16To21 := by
  intro t s hwf hidle
  have ht : fitsBits s.widths.tw t = true := hwf
  rw [exec_iskey, onCommandPort_idle hidle, complete_writeKey_accept, accept_opr, loadK_of_fits ht,
    isKey_eq]

end Sys2Proof.Machine
end

