-- ==== Sys2Proof/Proofs/Packetizer.lean ====
section
/-! PROOF. The acceptance of PKT (spec/43_packetizer.md): its operands load and the parameter check
chooses the first phase. -/

namespace Sys2Proof.Machine

theorem exec_pkt (len maxsz : Nat) (ts : Stamp) (ctx : Nat) (s : State) :
    exec (.pkt len maxsz ts ctx) s =
      onCommandPort (loadP s.widths 5 len maxsz ts ctx) (fun t => .next (checkMaxsz t)) s := rfl

/-- A position, offset or length that fits its wires is carried whole. -/
theorem pos_of_fits {w : Widths} {n : Nat} (h : fitsBits w.aw n = true) : w.pos n = n :=
  Nat.mod_eq_of_lt (of_decide_eq_true h)

/-- A context that fits its wires is carried whole. -/
theorem ctx_of_fits {w : Widths} {n : Nat} (h : fitsBits w.ctxw n = true) : w.ctx n = n :=
  Nat.mod_eq_of_lt (of_decide_eq_true h)

/-- `loadP` with operands that fit their wires (R54). -/
theorem loadP_of_fits {w : Widths} {len maxsz ctx : Nat} (hlen : fitsBits w.aw len = true)
    (hmax : fitsBits w.aw maxsz = true) (hctx : fitsBits w.ctxw ctx = true) (op : BitVec 3)
    (ts : Stamp) (r : Operands) :
    loadP w op len maxsz ts ctx r =
      { r with op := op, len := len, maxsz := maxsz, ts := ts, ctx := ctx } := by
  rw [loadP, pos_of_fits hlen, pos_of_fits hmax, ctx_of_fits hctx]

/-- A command that is accepted and goes on in a phase, whatever it loads (R19). -/
theorem toPhase_accept (p : Phase) (load : Operands → Operands) (s : State) :
    toPhase p (accept load s) =
      { s with opr := load s.opr, status := 1, result := 0, ph := p } := by
  calc toPhase p (accept load s)
      = { s with opr := load s.opr, status := statusWord true false, result := 0, ph := p } := rfl
    _ = _ := by rw [statusWord_true_false]; rfl

/-- A command that is accepted, raises PARAM and goes on in a phase (R19, R141). -/
theorem toPhase_raiseParam_accept (p : Phase) (load : Operands → Operands) (s : State) :
    toPhase p (raiseParam (accept load s)) =
      { s with opr := load s.opr, status := 1, result := 4, ph := p } := by
  calc toPhase p (raiseParam (accept load s))
      = { toPhase p (accept load s) with result := (raiseParam (accept load s)).result } := rfl
    _ = _ := by rw [raiseParam_accept_result, toPhase_accept]; rfl

/-- The parameter check of a command just accepted, on the MAXSZ it loaded (R108). -/
theorem checkMaxsz_accept (load : Operands → Operands) (s : State) :
    checkMaxsz (accept load s) =
      { s with
        opr := load s.opr
        status := 1
        result := if (load s.opr).maxsz ≤ 3 then 4 else 0
        ph := if (load s.opr).maxsz ≤ 3 then .finish else .first } := by
  obtain ⟨hlt, hcheck⟩ | ⟨hge, hcheck⟩ := checkMaxsz_cases (accept load s)
  · have hsmall : (load s.opr).maxsz ≤ 3 := Nat.le_of_lt_succ hlt
    rw [hcheck, toPhase_raiseParam_accept, if_pos hsmall, if_pos hsmall]
  · have hbig : ¬ (load s.opr).maxsz ≤ 3 := Nat.not_le_of_lt hge
    rw [hcheck, toPhase_accept, if_neg hbig, if_neg hbig]

/-- Settles O18: the operands fit their wires, so PKT loads them as given, and `checkMaxsz_accept`
decides on the MAXSZ loaded. -/
theorem pktIsAcceptedAndChecked : Obligations.PktIsAcceptedAndChecked := by
  intro len maxsz ts ctx s hwf hidle
  obtain ⟨⟨hlen, hmax⟩, hctx⟩ :
      (fitsBits s.widths.aw len = true ∧ fitsBits s.widths.aw maxsz = true) ∧
        fitsBits s.widths.ctxw ctx = true :=
    (Bool.and_eq_true_iff.1 hwf).imp_left Bool.and_eq_true_iff.1
  rw [exec_pkt, onCommandPort_idle hidle, checkMaxsz_accept, loadP_of_fits hlen hmax hctx]

end Sys2Proof.Machine
end

/-! PROOF. The decoder and the encoder (spec/30_encoding.md): each inverts the other, row by row. -/

namespace Sys2Proof

/-! ### The unit header: field assembly inverts the byte layout (R60 to R62) -/

theorem headerOfBytes_headerBytes (h : UnitHeader) :
    headerOfBytes (headerByte0 h) (headerByte1 h) = h := by
  have hf : (headerOfBytes (headerByte0 h) (headerByte1 h)).f = h.f := by
    apply BitVec.eq_of_toNat_eq
    rw [headerOfBytes_f_toNat, headerByte0_toNat]
    omega
  have ht : (headerOfBytes (headerByte0 h) (headerByte1 h)).t = h.t := by
    apply BitVec.eq_of_toNat_eq
    rw [headerOfBytes_t_toNat, headerByte0_toNat]
    omega
  have hl : (headerOfBytes (headerByte0 h) (headerByte1 h)).l = h.l := by
    apply BitVec.eq_of_toNat_eq
    rw [headerOfBytes_l_toNat, headerByte0_toNat, headerByte1_toNat]
    omega
  have hd : (headerOfBytes (headerByte0 h) (headerByte1 h)).d = h.d := by
    apply BitVec.eq_of_toNat_eq
    rw [headerOfBytes_d_toNat, headerByte1_toNat]
    omega
  calc headerOfBytes (headerByte0 h) (headerByte1 h)
      = ⟨(headerOfBytes (headerByte0 h) (headerByte1 h)).f,
          (headerOfBytes (headerByte0 h) (headerByte1 h)).t,
          (headerOfBytes (headerByte0 h) (headerByte1 h)).l,
          (headerOfBytes (headerByte0 h) (headerByte1 h)).d⟩ := rfl
    _ = h := by rw [hf, ht, hl, hd]

/-! ### The fragmentation header: its three bytes and its five fields (R63) -/

theorem isFuPattern_fuBytes (u : BitVec 6) (d : BitVec 3) :
    isFuPattern (fuByte0 u) (fuByte1 d) = true := by
  have h0 : ∀ u : BitVec 6, fuByte0 u &&& 0x81#8 = 0#8 := by decide
  have h1 : ∀ d : BitVec 3, fuByte1 d &&& 0xF8#8 = 0#8 := by decide
  simp only [isFuPattern, h0, h1, beq_self_eq_true, Bool.and_self]

theorem fuByte0_type : ∀ u : BitVec 6, (fuByte0 u >>> 1).setWidth 6 = u := by decide

theorem fuByte1_tid : ∀ d : BitVec 3, (fuByte1 d).setWidth 3 = d := by decide

theorem fuByte2_start : ∀ (sb eb : BitVec 1) (o : BitVec 6),
    (fuByte2 sb eb o >>> 7).setWidth 1 = sb := by decide

theorem fuByte2_end : ∀ (sb eb : BitVec 1) (o : BitVec 6),
    (fuByte2 sb eb o >>> 6).setWidth 1 = eb := by decide

theorem fuByte2_type : ∀ (sb eb : BitVec 1) (o : BitVec 6),
    (fuByte2 sb eb o).setWidth 6 = o := by decide

theorem fuByte0_of_pattern :
    ∀ b : Byte, b &&& 0x81#8 = 0#8 → fuByte0 ((b >>> 1).setWidth 6) = b := by decide

theorem fuByte1_of_pattern :
    ∀ b : Byte, b &&& 0xF8#8 = 0#8 → fuByte1 (b.setWidth 3) = b := by decide

theorem fuByte2_of_byte : ∀ b : Byte,
    fuByte2 ((b >>> 7).setWidth 1) ((b >>> 6).setWidth 1) (b.setWidth 6) = b := by decide

theorem fuByte0_eq_zero : ∀ u : BitVec 6, fuByte0 u = 0#8 → u = 0 := by decide

theorem fuByte1_eq_zero : ∀ d : BitVec 3, fuByte1 d = 0#8 → d = 0 := by decide

theorem fuByte2_eq_one : ∀ (sb eb : BitVec 1) (o : BitVec 6),
    fuByte2 sb eb o = 1#8 → sb = 0 ∧ eb = 0 ∧ o = 1 := by decide

/-- The one header that spells START3 is the one `fuNotStart3` leaves out (log entry 10). -/
theorem fuHdrBytes_ne_start3 {u : BitVec 6} {d : BitVec 3} {sb eb : BitVec 1} {o : BitVec 6}
    (h : fuNotStart3 u d sb eb o = true) :
    ¬ (fuByte0 u = 0#8 ∧ fuByte1 d = 0#8 ∧ fuByte2 sb eb o = 1#8) := by
  rintro ⟨h0, h1, h2⟩
  obtain ⟨rfl, rfl, rfl⟩ := fuByte2_eq_one sb eb o h2
  obtain rfl := fuByte0_eq_zero u h0
  obtain rfl := fuByte1_eq_zero d h1
  exact absurd h (by decide)

/-! ### Decoding what was encoded -/

theorem decodeStream_unitHdrBytes (f : BitVec 1) (t l : BitVec 6) (d : BitVec 3) :
    decodeStream (unitHdrBytes f t l d) = .ok (.unitHdr f t l d) := by
  simp only [unitHdrBytes, decodeStream, headerOfBytes_headerBytes]

theorem decodeStream_fuHdrBytes {u : BitVec 6} {d : BitVec 3} {sb eb : BitVec 1} {o : BitVec 6}
    (h : fuNotStart3 u d sb eb o = true) :
    decodeStream (fuHdrBytes u d sb eb o) = .ok (.fuHdr u d sb eb o) := by
  simp only [fuHdrBytes, decodeStream, if_neg (fuHdrBytes_ne_start3 h), isFuPattern_fuBytes,
    if_true, fuByte0_type, fuByte1_tid, fuByte2_start, fuByte2_end, fuByte2_type]

/-- Settles O1: a command by its op, a start code by its bytes, a header field by field. -/
theorem decodeInvertsEncode : Obligations.DecodeInvertsEncode := by
  intro w i hwf
  cases i with
  | scan pos len => rfl
  | sclen pos len => rfl
  | hdec hb0 hb1 => rfl
  | henc fin tin lin din => rfl
  | iskey tin => rfl
  | pkt len maxsz ts ctx => rfl
  | reserved6 => rfl
  | reserved7 => rfl
  | start3 => rfl
  | start4 => rfl
  | unitHdr f t l d => exact decodeStream_unitHdrBytes f t l d
  | fuHdr u d sb eb o => exact decodeStream_fuHdrBytes (Bool.and_eq_true_iff.1 hwf).2

/-! ### Encoding what was decoded -/

theorem unitHdrBytes_headerOfBytes (b0 b1 : Byte) :
    unitHdrBytes (headerOfBytes b0 b1).f (headerOfBytes b0 b1).t (headerOfBytes b0 b1).l
      (headerOfBytes b0 b1).d = [b0, b1] := by
  change [headerByte0 (headerOfBytes b0 b1), headerByte1 (headerOfBytes b0 b1)] = [b0, b1]
  rw [headerByte0_headerOfBytes, headerByte1_headerOfBytes]

theorem fuHdrBytes_of_pattern {b0 b1 : Byte} (b2 : Byte) (h : isFuPattern b0 b1 = true) :
    fuHdrBytes ((b0 >>> 1).setWidth 6) (b1.setWidth 3) ((b2 >>> 7).setWidth 1)
      ((b2 >>> 6).setWidth 1) (b2.setWidth 6) = [b0, b1, b2] := by
  obtain ⟨h0, h1⟩ := Bool.and_eq_true_iff.1 h
  rw [fuHdrBytes, fuByte0_of_pattern b0 (eq_of_beq h0), fuByte1_of_pattern b1 (eq_of_beq h1),
    fuByte2_of_byte]

/-- What bytes that decode can be: one of the four formats, each with its length (R56, R60, R63). -/
theorem decodeStream_ok_cases {bytes : List Byte} {i : Instr} (h : decodeStream bytes = .ok i) :
    (∃ b0 b1, bytes = [b0, b1] ∧ i = .unitHdr (headerOfBytes b0 b1).f (headerOfBytes b0 b1).t
      (headerOfBytes b0 b1).l (headerOfBytes b0 b1).d) ∨
    (bytes = start3Bytes ∧ i = .start3) ∨
    (∃ b0 b1 b2, bytes = [b0, b1, b2] ∧ isFuPattern b0 b1 = true ∧
      i = .fuHdr ((b0 >>> 1).setWidth 6) (b1.setWidth 3) ((b2 >>> 7).setWidth 1)
        ((b2 >>> 6).setWidth 1) (b2.setWidth 6)) ∨
    (bytes = start4Bytes ∧ i = .start4) := by
  unfold decodeStream at h
  split at h
  next b0 b1 => cases h; exact .inl ⟨b0, b1, rfl, rfl⟩
  next b0 b1 b2 =>
    split_ifs at h with hstart hfu
    · obtain ⟨rfl, rfl, rfl⟩ := hstart; cases h; exact .inr (.inl ⟨rfl, rfl⟩)
    · cases h; exact .inr (.inr (.inl ⟨b0, b1, b2, rfl, hfu, rfl⟩))
  next b0 b1 b2 b3 =>
    split_ifs at h with hstart
    obtain ⟨rfl, rfl, rfl, rfl⟩ := hstart; cases h; exact .inr (.inr (.inr ⟨rfl, rfl⟩))
  next => cases h

/-- Settles O2: by the format the bytes spell. -/
theorem encodeInvertsStreamDecode : Obligations.EncodeInvertsStreamDecode := by
  intro bytes i h
  obtain ⟨b0, b1, rfl, rfl⟩ | ⟨rfl, rfl⟩ | ⟨b0, b1, b2, rfl, hfu, rfl⟩ | ⟨rfl, rfl⟩ :=
    decodeStream_ok_cases h
  · exact ⟨congrArg _ (unitHdrBytes_headerOfBytes b0 b1), rfl, by simp, by simp⟩
  · exact ⟨rfl, rfl, by decide, by decide⟩
  · exact ⟨congrArg _ (fuHdrBytes_of_pattern b2 hfu), rfl, by simp, by simp⟩
  · exact ⟨rfl, rfl, by decide, by decide⟩

/-! ### The codec's fields as bit positions and as a round trip (R60, R97) -/

/-- Settles O5: H = {byte 0, byte 1}, so each field is a slice of byte 0, of byte 1, or of both. -/
theorem unitHeaderBitPositions : Obligations.UnitHeaderBitPositions := by
  rintro b0 b1 H rfl
  rw [Machine.hdecFn, headerOfBytes_f_toNat, headerOfBytes_t_toNat, headerOfBytes_l_toNat,
    headerOfBytes_d_toNat]
  omega

theorem hdecFn_hencFn (f : BitVec 1) (t : Nat) (l : BitVec 6) (d : Nat) :
    Machine.hdecFn (Machine.hencFn f t l d).1 (Machine.hencFn f t l d).2 =
      Machine.maskHeader f t l d :=
  headerOfBytes_headerBytes (Machine.maskHeader f t l d)

/-- Settles O7: what comes back is the masked header. -/
theorem hdecInvertsHencUpToMasks : Obligations.HdecInvertsHencUpToMasks := by
  intro f t l d h hdef
  rw [hdecFn_hencFn] at hdef
  have ht : h.t.toNat = t % 64 := by rw [hdef]; exact BitVec.toNat_ofNat t 6
  have hd : h.d.toNat = d % 8 := by rw [hdef]; exact BitVec.toNat_ofNat d 3
  refine ⟨by rw [hdef]; rfl, ht, by rw [hdef]; rfl, hd, ?_⟩
  rw [ht, hd]
  omega

/-! ### The fragmentation headers of PKT (R63, R64) -/

theorem fu2First_eq_fuByte2 : ∀ t : BitVec 6, Machine.fu2First t = fuByte2 1 0 t := by decide

theorem fu2ClearStart_fuByte2 : ∀ (sb eb : BitVec 1) (t : BitVec 6),
    Machine.fu2ClearStart (fuByte2 sb eb t) = fuByte2 0 eb t := by decide

theorem fu2SetEnd_fuByte2 : ∀ (sb eb : BitVec 1) (t : BitVec 6),
    Machine.fu2SetEnd (fuByte2 sb eb t) = fuByte2 sb 1 t := by decide

theorem firstFuBytes_eq (u : BitVec 6) (b0 b1 : Byte) :
    Machine.firstFuBytes u b0 b1 =
      ⟨fuByte0 u, fuByte1 (headerOfBytes b0 b1).d, fuByte2 1 0 (headerOfBytes b0 b1).t⟩ := by
  rw [← Machine.firstFuBytes_b0 u b0 b1, ← Machine.firstFuBytes_b1 u b0 b1,
    ← fu2First_eq_fuByte2 (headerOfBytes b0 b1).t]
  rfl

/-- Settles O8: the header built has S = 1 and E = 0, and FU2's two operations set the flags. -/
theorem pktHeadersAreFuHdr : Obligations.PktHeadersAreFuHdr := by
  rintro u b0 b1 h x rfl rfl
  rw [firstFuBytes_eq]
  refine ⟨rfl, ?_, ?_⟩
  · rw [fu2ClearStart_fuByte2]; rfl
  · rw [fu2ClearStart_fuByte2, fu2SetEnd_fuByte2]; rfl

/-! ### The command formats and the table's words (R53 to R55) -/

/-- Settles O3: `decodeCommand` decides on OP alone. -/
theorem commandFormatIsFixedByOp : Obligations.CommandFormatIsFixedByOp := by
  intro c
  refine ⟨?_, ?_, ?_, ?_, ?_, ?_, ?_, ?_⟩ <;> intro hop <;> simp [decodeCommand, hop]

/-- Settles O4: each word decodes by computation. -/
theorem specWordsDecode : Obligations.SpecWordsDecode := by
  unfold Obligations.SpecWordsDecode
  decide

end Sys2Proof

/-! PROOF. The command port and the host's transactions: which meaning a step runs, what each
command does to an idle block, and what the host's stores leave in the buffer. -/

namespace Sys2Proof.Machine

/-! ### The arms of `exec` not yet stated -/

theorem exec_scan (pos len : Nat) (s : State) :
    exec (.scan pos len) s = onCommandPort (loadS s.widths 0 pos len) (fun t =>
      withValue (scan t.buf t.opr.len t.opr.pos) fun p => .next (complete (writeRpos p t))) s := rfl

theorem exec_sclen (pos len : Nat) (s : State) :
    exec (.sclen pos len) s = onCommandPort (loadS s.widths 1 pos len) (fun t =>
      withValue (skipLen t.buf t.opr.len t.opr.pos) fun k =>
        .next (complete (writeSkip k t))) s := rfl

/-- A data format lays the bytes of its encoding (log entry 9). -/
theorem exec_of_encode_stream {i : Instr} {bytes : List Byte} (h : encode i = .stream bytes)
    (s : State) : exec i s = hostLay bytes s := by
  cases i with
  | start3 => cases h; rfl
  | start4 => cases h; rfl
  | unitHdr f t l d => cases h; rfl
  | fuHdr u d sb eb o => cases h; rfl
  | scan | sclen | hdec | henc | iskey | pkt | reserved6 | reserved7 => cases h

theorem encode_of_not_isCommand {i : Instr} (h : isCommand i = false) :
    ∃ bytes, encode i = .stream bytes := by
  unfold isCommand at h
  split at h
  next => cases h
  next bytes hbytes => exact ⟨bytes, hbytes⟩

/-! ### Which meaning a step runs (R19; log entries 6, 9) -/

theorem step_command {s : State} {c : Command} {hold : Bool} {rest : List HostEvent}
    (h : s.host = .command c hold :: rest) : step s = portStep c hold rest s := by
  simp only [step, turn, h]

theorem step_stream {s : State} {bytes : List Byte} {rest : List HostEvent}
    (h : s.host = .stream bytes :: rest) : step s = streamStep bytes (s.withHost rest) := by
  simp only [step, turn, h]

theorem step_bind {s : State} {bytes : List Byte} {rest : List HostEvent}
    (h : s.host = .bind bytes :: rest) : step s = hostStore [] 0 bytes (s.withHost rest) := by
  simp only [step, turn, h]

theorem step_store {s : State} {a : Nat} {bytes : List Byte} {rest : List HostEvent}
    (h : s.host = .store a bytes :: rest) : step s = hostStore s.buf a bytes (s.withHost rest) := by
  simp only [step, turn, h]

theorem step_reset {s : State} {rest : List HostEvent} (h : s.host = .reset :: rest) :
    step s = .next (resetBlock (s.withHost rest)) := by
  simp only [step, turn, h]

theorem portStep_idle {s : State} (h : s.busy = false) (c : Command) (hold : Bool)
    (rest : List HostEvent) :
    portStep c hold rest s = exec (decodeCommand c) (s.withHost rest) := by
  simp only [portStep, h, Bool.false_eq_true, if_false]

theorem streamStep_ok {bytes : List Byte} {i : Instr} (h : decodeStream bytes = .ok i) (s : State) :
    streamStep bytes s = exec i s := by
  simp only [streamStep, h]

theorem streamStep_error {bytes : List Byte} {e : DecodeError} (h : decodeStream bytes = .error e)
    (s : State) : streamStep bytes s = hostLay bytes s := by
  simp only [streamStep, h]

/-- Bytes laid go the one way, whether they spell a format or are plain payload (R66). -/
theorem streamStep_eq_hostLay (bytes : List Byte) (s : State) :
    streamStep bytes s = hostLay bytes s := by
  cases h : decodeStream bytes with
  | error e => exact streamStep_error h s
  | ok i =>
    rw [streamStep_ok h, exec_of_encode_stream (encodeInvertsStreamDecode bytes i h).1]

/-- Settles O9: the two transactions that carry an instruction. -/
theorem stepRunsDecodedInstruction : Obligations.StepRunsDecodedInstruction := by
  constructor
  · intro s c hold rest i hhost hidle hdec
    cases hdec
    rw [step_command hhost, portStep_idle hidle]
  · intro s bytes rest i hhost hdec
    rw [step_stream hhost, streamStep_ok hdec]

/-- The block made ready by `placeOnPort`, with the transaction taken off again, is the block it was
when it was ready already (log entry 20). -/
theorem readied_eq_self {s : State} {d : Bool} (hs : s.status = statusWord false d)
    (hp : s.ph = .idle) (hv : s.pk.valid = false) :
    { s with
      status := statusWord false d, ph := .idle, pk := { s.pk with valid := false } } = s := by
  rw [← hs, ← hp, ← hv]

theorem decodeTableWord_eq_some {n w : Nat} {i : Instr} (h : decodeTableWord n w = some i) :
    decode (tableEncoded n w) = .ok i := by
  unfold decodeTableWord at h
  split at h
  next j hj => cases h; exact hj
  next => cases h

/-- Settles O10: the word stands at the head of the host's list of a block that is otherwise `s`. -/
theorem placedTableWordRunsNext : Obligations.PlacedTableWordRunsNext := by
  intro s nbits w i hdec hs hp hv
  replace hdec := decodeTableWord_eq_some hdec
  have hself := readied_eq_self hs hp hv
  unfold State.withFetchWord placeOnPort
  cases hx : tableEncoded nbits w with
  | command c =>
    rw [hx] at hdec
    refine (stepRunsDecodedInstruction.1 _ c true s.host i rfl ?_ hdec).trans
      (congrArg (exec i) hself)
    exact statusWord_busy false s.done
  | stream bytes =>
    rw [hx] at hdec
    exact (stepRunsDecodedInstruction.2 _ bytes s.host i rfl hdec).trans
      (congrArg (exec i) hself)

/-- Every command goes through the command port (R19). -/
theorem exec_command_eq_onCommandPort {i : Instr} (hi : isCommand i = true) (s : State) :
    ∃ load run, exec i s = onCommandPort load run s := by
  cases i with
  | scan pos len => exact ⟨_, _, exec_scan pos len s⟩
  | sclen pos len => exact ⟨_, _, exec_sclen pos len s⟩
  | hdec b0 b1 => exact ⟨_, _, exec_hdec b0 b1 s⟩
  | henc f t l d => exact ⟨_, _, exec_henc f t l d s⟩
  | iskey t => exact ⟨_, _, exec_iskey t s⟩
  | pkt len maxsz ts ctx => exact ⟨_, _, exec_pkt len maxsz ts ctx s⟩
  | reserved6 => exact ⟨_, _, exec_reserved6 s⟩
  | reserved7 => exact ⟨_, _, exec_reserved7 s⟩
  | start3 | start4 | unitHdr | fuHdr => cases hi

/-- A command executed while BUSY = 1 has no effect (R19). -/
theorem exec_command_busy {i : Instr} (hi : isCommand i = true) {s : State} (h : s.busy = true) :
    exec i s = .next s := by
  obtain ⟨load, run, hexec⟩ := exec_command_eq_onCommandPort hi s
  rw [hexec, onCommandPort_busy h]

/-- A command waiting on the port of a busy block leaves the turn to the block (R19). -/
theorem takesOwnStep_of_command {s : State} (hb : s.busy = true) {c : Command} {hold : Bool}
    {rest : List HostEvent} (h : s.host = .command c hold :: rest) :
    TakesOwnStep s (if hold then s else s.withHost rest) := by
  unfold TakesOwnStep
  rw [h]
  exact ⟨hb, rfl⟩

/-- Settles O11: `exec` leaves the state, and the turn is the block's own. -/
theorem busyBlockAcceptsNoCommand : Obligations.BusyBlockAcceptsNoCommand := by
  intro s hb
  exact ⟨fun i hi => exec_command_busy hi hb,
    fun c rest h => step_of_takesOwnStep (takesOwnStep_of_command hb h),
    fun c rest h => step_of_takesOwnStep (takesOwnStep_of_command hb h)⟩

/-! ### SCAN and SCLEN (R77, R83) -/

/-- `loadS` with operands that fit their wires (R54). -/
theorem loadS_of_fits {w : Widths} {pos len : Nat} (hpos : fitsBits w.aw pos = true)
    (hlen : fitsBits w.aw len = true) (op : BitVec 3) (r : Operands) :
    loadS w op pos len r = { r with op := op, pos := pos, len := len } := by
  rw [loadS, pos_of_fits hpos, pos_of_fits hlen]

/-- A command that only writes RPOS, whatever it loads (R19, R28). -/
theorem complete_writeRpos_accept (load : Operands → Operands) (p : Nat) (s : State) :
    complete (writeRpos p (accept load s)) =
      { s with
        opr := load s.opr
        res := { s.res with rpos := p }
        written := { s.written with scan := true }
        status := 2, result := 0, ph := .idle } := rfl

/-- A command that only writes SKIP, whatever it loads (R19, R28). -/
theorem complete_writeSkip_accept (load : Operands → Operands) (k : BitVec 3) (s : State) :
    complete (writeSkip k (accept load s)) =
      { s with
        opr := load s.opr
        res := { s.res with skip := k }
        written := { s.written with sclen := true }
        status := 2, result := 0, ph := .idle } := rfl

/-- SCAN on an idle block, with the operands at the width of their registers. -/
theorem exec_scan_idle {s : State} (h : s.busy = false) (pos len : Nat) :
    exec (.scan pos len) s =
      withValue (scan s.buf (s.widths.pos len) (s.widths.pos pos)) fun p =>
        .next (complete (writeRpos p (accept (loadS s.widths 0 pos len) s))) := by
  rw [exec_scan, onCommandPort_idle h]
  rfl

/-- SCLEN on an idle block, with the operands at the width of their registers. -/
theorem exec_sclen_idle {s : State} (h : s.busy = false) (pos len : Nat) :
    exec (.sclen pos len) s =
      withValue (skipLen s.buf (s.widths.pos len) (s.widths.pos pos)) fun k =>
        .next (complete (writeSkip k (accept (loadS s.widths 1 pos len) s))) := by
  rw [exec_sclen, onCommandPort_idle h]
  rfl

/-- Over a buffer bound up to LEN, SkipLen answers. -/
theorem skipLen_of_boundTo {m : Memory} {len : Nat} (hm : m.boundTo len) (pos : Nat) :
    ∃ k, skipLen m len pos = .ok k ∧ IsSkipLen m len pos k := by
  rcases skipLen_cases m len pos with h | h
  · exact h
  · exact absurd hm h.not_boundTo

/-- Settles O12: the operands fit, the scan answers, and SCAN only writes RPOS. -/
theorem scanFindsLeastStartCode : Obligations.ScanFindsLeastStartCode := by
  intro pos len s hwf hidle hbound
  obtain ⟨hpos, hlen⟩ := Bool.and_eq_true_iff.1 hwf
  obtain ⟨p, hscan, hp⟩ := scan_of_boundTo hbound pos
  refine ⟨p, hp, hp.le_len, ?_⟩
  rw [exec_scan_idle hidle, pos_of_fits hpos, pos_of_fits hlen, hscan, withValue_ok,
    complete_writeRpos_accept, loadS_of_fits hpos hlen]

/-- Settles O13: the operands fit, SkipLen answers, and SCLEN only writes SKIP. -/
theorem sclenReportsStartCodeLength : Obligations.SclenReportsStartCodeLength := by
  intro pos len s hwf hidle hbound
  obtain ⟨hpos, hlen⟩ := Bool.and_eq_true_iff.1 hwf
  obtain ⟨k, hskip, hk⟩ := skipLen_of_boundTo hbound pos
  refine ⟨k, hk, ?_⟩
  rw [exec_sclen_idle hidle, pos_of_fits hpos, pos_of_fits hlen, hskip, withValue_ok,
    complete_writeSkip_accept, loadS_of_fits hpos hlen]

/-! ### What a command does to an idle block -/

/-- HDEC on an idle block. -/
theorem exec_hdec_idle {s : State} (h : s.busy = false) (b0 b1 : Byte) :
    exec (.hdec b0 b1) s =
      .next (complete (writeHeader (hdecFn b0 b1) (accept (loadD 2 b0 b1) s))) := by
  rw [exec_hdec, onCommandPort_idle h]
  rfl

/-- HENC on an idle block, with the operands at the width of their registers. -/
theorem exec_henc_idle {s : State} (h : s.busy = false) (f : BitVec 1) (t : Nat) (l : BitVec 6)
    (d : Nat) :
    exec (.henc f t l d) s =
      .next (complete (writeBytes (hencFn f (s.widths.typ t) l (s.widths.typ d))
        (accept (loadE s.widths 3 f t l d) s))) := by
  rw [exec_henc, onCommandPort_idle h]
  rfl

/-- ISKEY on an idle block, with the operand at the width of its register. -/
theorem exec_iskey_idle {s : State} (h : s.busy = false) (t : Nat) :
    exec (.iskey t) s =
      .next (complete (writeKey (isKey (s.widths.typ t)) (accept (loadK s.widths 4 t) s))) := by
  rw [exec_iskey, onCommandPort_idle h]
  rfl

/-- PKT on an idle block. -/
theorem exec_pkt_idle {s : State} (h : s.busy = false) (len maxsz : Nat) (ts : Stamp) (ctx : Nat) :
    exec (.pkt len maxsz ts ctx) s =
      .next (checkMaxsz (accept (loadP s.widths 5 len maxsz ts ctx) s)) := by
  rw [exec_pkt, onCommandPort_idle h]

/-- What a command that an idle block takes can do, said once: which it was, the value it computed,
and the state it gives. -/
inductive CommandEffect (s : State) : Instr → State → Prop
  | scan {pos len p : Nat} (h : scan s.buf (s.widths.pos len) (s.widths.pos pos) = .ok p) :
    CommandEffect s (.scan pos len)
      (complete (writeRpos p (accept (loadS s.widths 0 pos len) s)))
  | sclen {pos len : Nat} {k : BitVec 3}
    (h : skipLen s.buf (s.widths.pos len) (s.widths.pos pos) = .ok k) :
    CommandEffect s (.sclen pos len)
      (complete (writeSkip k (accept (loadS s.widths 1 pos len) s)))
  | hdec (b0 b1 : Byte) :
    CommandEffect s (.hdec b0 b1)
      (complete (writeHeader (hdecFn b0 b1) (accept (loadD 2 b0 b1) s)))
  | henc (f : BitVec 1) (t : Nat) (l : BitVec 6) (d : Nat) :
    CommandEffect s (.henc f t l d)
      (complete (writeBytes (hencFn f (s.widths.typ t) l (s.widths.typ d))
        (accept (loadE s.widths 3 f t l d) s)))
  | iskey (t : Nat) :
    CommandEffect s (.iskey t)
      (complete (writeKey (isKey (s.widths.typ t)) (accept (loadK s.widths 4 t) s)))
  | pkt (len maxsz : Nat) (ts : Stamp) (ctx : Nat) :
    CommandEffect s (.pkt len maxsz ts ctx)
      (checkMaxsz (accept (loadP s.widths 5 len maxsz ts ctx) s))
  | reserved6 : CommandEffect s .reserved6 (complete (raiseParam (accept (loadNone 6) s)))
  | reserved7 : CommandEffect s .reserved7 (complete (raiseParam (accept (loadNone 7) s)))

theorem commandEffect_of_exec {i : Instr} {s t : State} (hi : isCommand i = true)
    (hb : s.busy = false) (h : exec i s = .next t) : CommandEffect s i t := by
  cases i with
  | scan pos len =>
    rw [exec_scan_idle hb] at h
    obtain ⟨p, hp, h⟩ := withValue_next h
    cases h; exact .scan hp
  | sclen pos len =>
    rw [exec_sclen_idle hb] at h
    obtain ⟨k, hk, h⟩ := withValue_next h
    cases h; exact .sclen hk
  | hdec b0 b1 => rw [exec_hdec_idle hb] at h; cases h; exact .hdec b0 b1
  | henc f t l d => rw [exec_henc_idle hb] at h; cases h; exact .henc f t l d
  | iskey t => rw [exec_iskey_idle hb] at h; cases h; exact .iskey t
  | pkt len maxsz ts ctx => rw [exec_pkt_idle hb] at h; cases h; exact .pkt len maxsz ts ctx
  | reserved6 => rw [exec_reserved6, onCommandPort_idle hb] at h; cases h; exact .reserved6
  | reserved7 => rw [exec_reserved7, onCommandPort_idle hb] at h; cases h; exact .reserved7
  | start3 | start4 | unitHdr | fuHdr => cases hi

/-- What no command touches in the turn it is taken. -/
theorem CommandEffect.frame {i : Instr} {s t : State} (h : CommandEffect s i t) :
    t.work = s.work ∧ t.pk = s.pk ∧ t.widths = s.widths ∧ t.fuType = s.fuType ∧ t.buf = s.buf ∧
      t.host = s.host ∧ t.sink = s.sink := by
  cases h with
  | pkt len maxsz ts ctx =>
    rw [checkMaxsz_accept]
    exact ⟨rfl, rfl, rfl, rfl, rfl, rfl, rfl⟩
  | scan | sclen | hdec | henc | iskey | reserved6 | reserved7 =>
    exact ⟨rfl, rfl, rfl, rfl, rfl, rfl, rfl⟩

/-- Settles O19: the MAXSZ loaded is at most 3 too, so the check ends the operation. -/
theorem pktWithSmallMaxszEndsAtOnce : Obligations.PktWithSmallMaxszEndsAtOnce := by
  intro len maxsz ts ctx s hidle hsmall
  have hload : (loadP s.widths 5 len maxsz ts ctx s.opr).maxsz ≤ 3 :=
    (Nat.mod_le maxsz _).trans hsmall
  have hexec := exec_pkt_idle hidle len maxsz ts ctx
  rw [checkMaxsz_accept, if_pos hload, if_pos hload] at hexec
  refine ⟨_, hexec, rfl, fun b hown => ?_, rfl, rfl, rfl, rfl, rfl, rfl⟩
  have hph : b.ph = .finish := by rw [hown.eq_withHost]; rfl
  rw [step_of_takesOwnStep hown, blockStep_finish hph]
  rfl

/-! ### The host's transactions on its buffer (R35, R36, R42) -/

/-- A store by an idle block that fits the address space. -/
theorem hostStore_idle {base : Memory} {a : Nat} {bytes : List Byte} {s : State}
    (hb : s.busy = false) (hfit : a + bytes.length ≤ s.widths.maxLen) :
    hostStore base a bytes s = .next { s with buf := memWriteBytes base a bytes } := by
  rcases hostStore_cases base a bytes s with ⟨h, -⟩ | ⟨-, -, h⟩ | ⟨-, h, -⟩
  · rw [hb] at h; cases h
  · exact h
  · omega

/-- While BUSY = 1 every store is refused (U8; log entry 8). -/
theorem hostStore_busy {s : State} (hb : s.busy = true) (base : Memory) (a : Nat)
    (bytes : List Byte) : hostStore base a bytes s = .refused .bufferInUse := by
  rcases hostStore_cases base a bytes s with ⟨-, h⟩ | ⟨h, -⟩ | ⟨h, -⟩
  · exact h
  · rw [hb] at h; cases h
  · rw [hb] at h; cases h

/-- If a store led to a next state, BUSY was 0, the bytes had room, and they stand in the buffer. -/
theorem hostStore_next {base : Memory} {a : Nat} {bytes : List Byte} {s t : State}
    (h : hostStore base a bytes s = .next t) :
    s.busy = false ∧ a + bytes.length ≤ s.widths.maxLen ∧
      t = { s with buf := memWriteBytes base a bytes } := by
  rcases hostStore_cases base a bytes s with ⟨-, g⟩ | ⟨hb, hfit, g⟩ | ⟨-, -, g⟩
  · rw [g] at h; cases h
  · rw [g] at h; cases h; exact ⟨hb, hfit, rfl⟩
  · rw [g] at h; cases h

/-- Settles O20: the bytes of the encoding are written from `memTop` on. -/
theorem dataFormatsAreLaidInTheBuffer : Obligations.DataFormatsAreLaidInTheBuffer := by
  intro i bytes s hi hidle hfit
  refine ⟨memWriteBytes s.buf (memTop s.buf) bytes, ?_, fun a ha => ?_, fun a ha => ?_,
    fun k hk => ?_⟩
  · rw [exec_of_encode_stream hi, hostLay, hostStore_idle hidle hfit]
  · rw [memRead?_memWriteBytes, if_neg (by omega)]
  · rw [memRead?_memWriteBytes, if_neg (by omega)]
  · rw [memRead?_memWriteBytes, if_pos (by omega), Nat.add_sub_cancel_left]

/-- Settles O21: every way of storing is one `hostStore`. -/
theorem bufferChangeWhileBusyIsRefused : Obligations.BufferChangeWhileBusyIsRefused := by
  intro s hb
  have hbusy : ∀ rest, (s.withHost rest).busy = true := fun _ => hb
  refine ⟨fun i hi => ?_, fun bytes rest h => ?_, fun bytes rest h => ?_, fun a bytes rest h => ?_⟩
  · obtain ⟨bytes, hbytes⟩ := encode_of_not_isCommand hi
    rw [exec_of_encode_stream hbytes]
    exact hostStore_busy hb _ _ _
  · rw [step_stream h, streamStep_eq_hostLay]
    exact hostStore_busy (hbusy rest) _ _ _
  · rw [step_bind h]
    exact hostStore_busy (hbusy rest) _ _ _
  · rw [step_store h]
    exact hostStore_busy (hbusy rest) _ _ _

/-- Bytes written to the empty buffer from offset 0 are the buffer. -/
theorem memRead?_memWriteBytes_nil (bytes : List Byte) (x : Nat) :
    memRead? (memWriteBytes [] 0 bytes) x = bytes[x]? := by
  rw [memRead?_memWriteBytes]
  split_ifs with hx
  · rw [Nat.sub_zero]
  · have hlen : bytes.length ≤ x := by omega
    rw [List.getElem?_eq_none hlen]
    rfl

/-- Settles O45: the three transactions are writes at their address, into the buffer or an empty
one. -/
theorem hostStoreReadsBack : Obligations.HostStoreReadsBack := by
  intro s bytes rest hidle hwf
  replace hidle : (s.withHost rest).busy = false := hidle
  refine ⟨fun a hhost hfit => ?_, fun hhost hfit => ?_, fun hhost _ hfit => ?_⟩
  · refine ⟨memWriteBytes s.buf a bytes, ?_, memWriteBytes_wf bytes s.buf a hwf hfit,
      memRead?_memWriteBytes bytes s.buf a⟩
    rw [step_store hhost, hostStore_idle hidle hfit]
    rfl
  · have hfit0 : 0 + bytes.length ≤ s.widths.maxLen := by omega
    refine ⟨memWriteBytes [] 0 bytes, ?_, memWriteBytes_wf bytes [] 0 memory_nil_wf hfit0,
      memRead?_memWriteBytes_nil bytes⟩
    rw [step_bind hhost, hostStore_idle hidle hfit0]
    rfl
  · refine ⟨memWriteBytes s.buf (memTop s.buf) bytes, ?_,
      memWriteBytes_wf bytes s.buf (memTop s.buf) hwf hfit,
      memRead?_memWriteBytes bytes s.buf (memTop s.buf)⟩
    rw [step_stream hhost, streamStep_eq_hostLay, hostLay]
    exact hostStore_idle hidle hfit

/-! ### The response port (R15, R17) -/

/-- Whether the host reads a value in a result register. -/
def regDefined (w : Written) : ResultReg → Bool
  | .rpos => w.scan
  | .skip => w.sclen
  | .fout => w.hdec
  | .tout => w.hdec
  | .lout => w.hdec
  | .dout => w.hdec
  | .eb0 => w.henc
  | .eb1 => w.henc
  | .key => w.iskey

/-- The value of a result register as a number. -/
def regValue (v : Results) : ResultReg → Nat
  | .rpos => v.rpos
  | .skip => v.skip.toNat
  | .fout => v.fout.toNat
  | .tout => v.tout.toNat
  | .lout => v.lout.toNat
  | .dout => v.dout.toNat
  | .eb0 => v.eb0.toNat
  | .eb1 => v.eb1.toNat
  | .key => v.key.toNat

theorem readReg_eq (s : State) (r : ResultReg) :
    readReg s r = if regDefined s.written r then some (regValue s.res r) else none := by
  cases r <;> rfl

theorem readReg_of_eq {s t : State} (hw : t.written = s.written) (hr : t.res = s.res)
    (r : ResultReg) : readReg t r = readReg s r := by
  rw [readReg_eq, readReg_eq, hw, hr]

/-- A completed command defines the registers it owns (R17). -/
theorem CommandEffect.regDefined_of_mem {i : Instr} {s t : State} (h : CommandEffect s i t)
    {r : ResultReg} (hr : r ∈ ownRegs i) : regDefined t.written r = true := by
  cases h with
  | scan => obtain rfl : r = .rpos := List.mem_singleton.1 hr; rfl
  | sclen => obtain rfl : r = .skip := List.mem_singleton.1 hr; rfl
  | hdec =>
    simp only [ownRegs, List.mem_cons, List.not_mem_nil, or_false] at hr
    rcases hr with rfl | rfl | rfl | rfl <;> rfl
  | henc =>
    simp only [ownRegs, List.mem_cons, List.not_mem_nil, or_false] at hr
    rcases hr with rfl | rfl <;> rfl
  | iskey => obtain rfl : r = .key := List.mem_singleton.1 hr; rfl
  | pkt | reserved6 | reserved7 => exact absurd hr List.not_mem_nil

/-- A command leaves every result register that is not its own (R17). -/
theorem CommandEffect.readReg_of_not_mem {i : Instr} {s t : State} (h : CommandEffect s i t)
    {r : ResultReg} (hr : r ∉ ownRegs i) : readReg t r = readReg s r := by
  cases h with
  | scan =>
    cases r with
    | rpos => exact absurd (by simp [ownRegs]) hr
    | _ => rfl
  | sclen =>
    cases r with
    | skip => exact absurd (by simp [ownRegs]) hr
    | _ => rfl
  | hdec =>
    cases r with
    | fout | tout | lout | dout => exact absurd (by simp [ownRegs]) hr
    | _ => rfl
  | henc =>
    cases r with
    | eb0 | eb1 => exact absurd (by simp [ownRegs]) hr
    | _ => rfl
  | iskey =>
    cases r with
    | key => exact absurd (by simp [ownRegs]) hr
    | _ => rfl
  | pkt => rw [checkMaxsz_accept]; exact readReg_of_eq rfl rfl r
  | reserved6 => exact readReg_of_eq rfl rfl r
  | reserved7 => exact readReg_of_eq rfl rfl r

/-- The registers an instruction owns show a value after it (R17). -/
theorem readReg_of_mem_ownRegs {i : Instr} {s t : State} (hb : s.busy = false)
    (h : exec i s = .next t) {r : ResultReg} (hr : r ∈ ownRegs i) :
    readReg t r = some (regValue t.res r) := by
  have hi : isCommand i = true := by
    cases i with
    | start3 | start4 | unitHdr | fuHdr => exact absurd hr List.not_mem_nil
    | _ => rfl
  rw [readReg_eq, (commandEffect_of_exec hi hb h).regDefined_of_mem hr, if_pos rfl]

/-- An instruction leaves every result register that is not its own (R17). -/
theorem readReg_of_not_mem_ownRegs {i : Instr} {s t : State} (hb : s.busy = false)
    (h : exec i s = .next t) {r : ResultReg} (hr : r ∉ ownRegs i) : readReg t r = readReg s r := by
  cases hi : isCommand i with
  | true => exact (commandEffect_of_exec hi hb h).readReg_of_not_mem hr
  | false =>
    obtain ⟨bytes, hbytes⟩ := encode_of_not_isCommand hi
    rw [exec_of_encode_stream hbytes] at h
    obtain ⟨-, -, rfl⟩ := hostStore_next h
    rfl

/-- Settles O43: an instruction's own registers show what it left in them, the others stand. -/
theorem operationWritesOnlyItsOwnResults : Obligations.OperationWritesOnlyItsOwnResults := by
  refine ⟨fun s => ⟨rfl, rfl, rfl, rfl, rfl, rfl, rfl⟩, fun i s t hb h => ?_⟩
  have own : ∀ {r}, r ∈ ownRegs i → readReg t r = some (regValue t.res r) :=
    readReg_of_mem_ownRegs hb h
  refine ⟨fun r hr => by rw [own hr]; rfl, fun r => readReg_of_not_mem_ownRegs hb h,
    ?_, ?_, ?_, ?_, ?_⟩
  · rintro pos len rfl
    exact own (by simp [ownRegs])
  · rintro pos len rfl
    exact own (by simp [ownRegs])
  · rintro b0 b1 rfl
    exact ⟨own (by simp [ownRegs]), own (by simp [ownRegs]), own (by simp [ownRegs]),
      own (by simp [ownRegs])⟩
  · rintro f ty l d rfl
    exact ⟨own (by simp [ownRegs]), own (by simp [ownRegs])⟩
  · rintro ty rfl
    rw [own (by simp [ownRegs]), regValue]
    cases t.res.key <;> rfl

/-! ### The pseudo-operations (R69) -/

/-- HENC of `FUHDR`: the fragmentation header's bytes 0 and 1. -/
theorem hencFn_fuhdr (u : BitVec 6) (tid : Nat) :
    hencFn 0 u.toNat 0 tid = (fuByte0 u, fuByte1 (BitVec.ofNat 3 tid)) := by
  have h0 : ∀ (u : BitVec 6) (d : BitVec 3), headerByte0 ⟨0, u, 0, d⟩ = fuByte0 u := by decide
  have h1 : ∀ (u : BitVec 6) (d : BitVec 3), headerByte1 ⟨0, u, 0, d⟩ = fuByte1 d := by decide
  rw [hencFn, maskHeader, BitVec.ofNat_toNat, BitVec.setWidth_eq, h0, h1]

/-- Where a start code of three bytes begins, no start code of four does. -/
theorem MatchAt.not_match4At {m : Memory} {len p : Nat} (h : MatchAt m len p) :
    ¬ Match4At m len p := by
  rintro ⟨-, -, -, h0, -⟩
  obtain ⟨-, -, -, h1⟩ := h
  rw [h0] at h1
  exact absurd (Option.some.inj h1) (by decide)

theorem IsSkipLen.eq_three {m : Memory} {len p : Nat} {k : BitVec 3} (h : IsSkipLen m len p k)
    (hm : MatchAt m len p) : k = 3 := by
  rcases h with ⟨-, h4⟩ | ⟨rfl, -⟩ | ⟨-, -, h3⟩
  · exact absurd h4 hm.not_match4At
  · rfl
  · exact absurd hm h3

/-- The position after a start code is a position of the buffer, or the one searched from. -/
theorem IsSkipLen.add_le {m : Memory} {len p : Nat} {k : BitVec 3} (h : IsSkipLen m len p k) :
    p + k.toNat ≤ max p len := by
  rcases h with ⟨rfl, h4, -⟩ | ⟨rfl, h3, -⟩ | ⟨rfl, -⟩
  · exact le_max_of_le_right (by change p + 4 ≤ len; omega)
  · exact le_max_of_le_right (by change p + 3 ≤ len; omega)
  · exact le_max_left p len

/-- NEXTSC scans from a position that fits its wires. -/
theorem fits_add_skip {w : Widths} {m : Memory} {len p : Nat} {k : BitVec 3}
    (h : IsSkipLen m len p k) (hp : fitsBits w.aw p = true) (hlen : fitsBits w.aw len = true) :
    fitsBits w.aw (p + k.toNat) = true :=
  decide_eq_true (h.add_le.trans_lt (max_lt (of_decide_eq_true hp) (of_decide_eq_true hlen)))

/-- Settles O34: each pseudo-operation is its operations, run by the lemmas above. -/
theorem pseudoOperationsExpand : Obligations.PseudoOperationsExpand := by
  intro s hidle
  refine ⟨fun tid hwf => ?_, fun b0 b1 => ?_, fun pos len hwf hbound => ?_,
    fun len hwf hbound => ?_⟩
  · obtain ⟨htype, htid⟩ := Bool.and_eq_true_iff.1 hwf
    refine ⟨_, exec_henc_idle hidle 0 s.fuType.toNat 0 tid, fun sb eb ty => ?_⟩
    rw [typ_of_fits htype, typ_of_fits htid, hencFn_fuhdr]
    rfl
  · refine ⟨_, exec_hdec_idle hidle b0 b1, ?_⟩
    have hd : (hdecFn b0 b1).d.toNat = b1.toNat % 8 := headerOfBytes_d_toNat b0 b1
    have hzero : (hdecFn b0 b1).d = 0 ↔ b1.toNat % 8 = 0 := by rw [← hd, ← BitVec.toNat_inj]; rfl
    change (if (hdecFn b0 b1).d = 0 then none else some ((hdecFn b0 b1).d.toNat - 1)) = _
    simp only [hzero, hd]
  · obtain ⟨k, hk, hexec⟩ := sclenReportsStartCodeLength pos len s hwf hidle hbound
    exact ⟨_, k, hexec, hk, rfl⟩
  · obtain ⟨hpos, hlen⟩ := Bool.and_eq_true_iff.1 hwf
    obtain ⟨k, hk, hexec⟩ := sclenReportsStartCodeLength s.res.rpos len s hwf hidle hbound
    have hwf' : (Instr.scan (s.res.rpos + k.toNat) len).wellFormed s.widths = true :=
      Bool.and_eq_true_iff.2 ⟨fits_add_skip hk hpos hlen, hlen⟩
    obtain ⟨p, hp, -, hscan⟩ := scanFindsLeastStartCode (s.res.rpos + k.toNat) len
      { s with
        opr := { s.opr with op := 1, pos := s.res.rpos, len := len }
        res := { s.res with skip := k }
        written := { s.written with sclen := true }
        status := 2, result := 0, ph := .idle } hwf' (statusWord_busy false true) hbound
    exact ⟨_, _, k, hexec, hk, hscan, hp, hk.eq_three⟩

end Sys2Proof.Machine

/-! PROOF. The block's own step: what it can do, said once, and with it what every step keeps. -/

namespace Sys2Proof.Machine

/-! ### What the block's own step can do -/

/-- The block's own step, by the phase it is in (R109 to R120, R121, R166). -/
inductive BlockMove (s : State) : State → Prop
  | idle (hp : s.ph = .idle) : BlockMove s s
  | first {p : Nat} (hp : s.ph = .first) (hscan : scan s.buf s.opr.len 0 = .ok p) :
    BlockMove s
      { s with work := { s.work with r := p }, ph := if p < s.opr.len then .skip else .finish }
  | skip {c : Nat} (hp : s.ph = .skip) (hstart : unitStart s.buf s.opr.len s.work.r = .ok c) :
    BlockMove s { s with work := { s.work with cur := c }, ph := .next }
  | next {p : Nat} (hp : s.ph = .next) (hscan : scan s.buf s.opr.len s.work.cur = .ok p) :
    BlockMove s
      { s with
        work := { s.work with r1 := p, mark := decide (p = s.opr.len), ulen := p - s.work.cur }
        ph := if p - s.work.cur ≤ s.opr.maxsz then .single else .fragInit }
  | stall (hp : s.ph = .single ∨ s.ph = .fragLoop ∨ s.ph = .fragLast) (hv : s.pk.valid = true)
    (ha : s.sink.answers = []) : BlockMove s s
  | singlePut (hp : s.ph = .single) (hv : s.pk.valid = false) :
    BlockMove s (present s.work.mark none s.work.cur s.work.ulen s)
  | singleTake {a : Nat} {rest : List Nat} (hp : s.ph = .single) (hv : s.pk.valid = true)
    (ha : s.sink.answers = a :: rest) :
    BlockMove s (toPhase .adv (answered (s.widths.answer a) rest s))
  | shortUnit (hp : s.ph = .fragInit) (hshort : s.work.ulen < 2) :
    BlockMove s (toPhase .adv (raiseDec (setFlen s)))
  | fragInit {b0 b1 : Byte} (hp : s.ph = .fragInit) (hlong : 2 ≤ s.work.ulen)
    (h0 : memReadByte s.buf s.opr.len s.work.cur = .ok b0)
    (h1 : memReadByte s.buf s.opr.len (s.work.cur + 1) = .ok b1) :
    BlockMove s
      { setFlen s with work := fragHeader s.fuType b0 b1 (setFlen s).work, ph := .fragLoop }
  | fragPut (hp : s.ph = .fragLoop) (hv : s.pk.valid = false) (hmore : s.work.flen < s.work.rem) :
    BlockMove s (present false (some s.work.fuBytes) s.work.off s.work.flen s)
  | fragTake {a : Nat} {rest : List Nat} (hp : s.ph = .fragLoop) (hv : s.pk.valid = true)
    (ha : s.sink.answers = a :: rest) :
    BlockMove s (fragAdvance (answered (s.widths.answer a) rest s))
  | fragLeave (hp : s.ph = .fragLoop) (hv : s.pk.valid = false) (hlast : s.work.rem ≤ s.work.flen) :
    BlockMove s (toPhase .fragLast s)
  | lastPut (hp : s.ph = .fragLast) (hv : s.pk.valid = false) : BlockMove s (presentLast s)
  | lastTake {a : Nat} {rest : List Nat} (hp : s.ph = .fragLast) (hv : s.pk.valid = true)
    (ha : s.sink.answers = a :: rest) :
    BlockMove s (toPhase .adv (answered (s.widths.answer a) rest s))
  | adv (hp : s.ph = .adv) :
    BlockMove s
      { s with
        work := { s.work with r := s.work.r1 }
        ph := if s.work.r1 < s.opr.len then .skip else .finish }
  | finish (hp : s.ph = .finish) : BlockMove s (complete s)

/-- An emitting phase with no packet on the port presents one (R121). -/
theorem emitStep_put {put after : State → State} {s : State} (h : s.pk.valid = false) :
    emitStep put after s = .next (put s) := by
  simp only [emitStep, h, Bool.false_eq_true, if_false]

/-- An emitting phase with a packet on the port takes the answer (R121). -/
theorem emitStep_take {put after : State → State} {s : State} {a : Nat} {rest : List Nat}
    (h : s.pk.valid = true) (ha : s.sink.answers = a :: rest) :
    emitStep put after s = .next (after (answered (s.widths.answer a) rest s)) := by
  simp only [emitStep, h, ha, if_true]

/-- An emitting phase with a packet on the port and no answer waits (R166). -/
theorem emitStep_stall {put after : State → State} {s : State} (h : s.pk.valid = true)
    (ha : s.sink.answers = []) : emitStep put after s = .next s := by
  simp only [emitStep, h, ha, if_true]

/-- The two branches of FRAG_LOOP (R117). -/
theorem phaseFragLoop_emit {s : State} (h : s.pk.valid = true ∨ s.work.flen < s.work.rem) :
    phaseFragLoop s =
      emitStep (fun t => present false (some t.work.fuBytes) t.work.off t.work.flen t)
        fragAdvance s :=
  if_pos h

theorem phaseFragLoop_leave {s : State} (hv : s.pk.valid = false)
    (h : s.work.rem ≤ s.work.flen) : phaseFragLoop s = .next (toPhase .fragLast s) := by
  refine if_neg ?_
  rintro (hv' | hlt)
  · rw [hv] at hv'; cases hv'
  · omega

/-- FRAG_INIT with a unit under two bytes (R115). -/
theorem phaseFragInit_short {s : State} (h : s.work.ulen < 2) :
    phaseFragInit s = .next (toPhase .adv (raiseDec (setFlen s))) :=
  if_pos h

/-- FRAG_INIT with a unit of two bytes or more (R116). -/
theorem phaseFragInit_long {s : State} (h : 2 ≤ s.work.ulen) :
    phaseFragInit s =
      withValue (memReadByte s.buf s.opr.len s.work.cur) fun b0 =>
        withValue (memReadByte s.buf s.opr.len (s.work.cur + 1)) fun b1 =>
          .next { setFlen s with
            work := fragHeader s.fuType b0 b1 (setFlen s).work
            ph := .fragLoop } :=
  if_neg (Nat.not_lt.2 h)

/-- A block step that answers a next state is one of the moves. -/
theorem blockMove_of_blockStep {s t : State} (h : blockStep s = .next t) : BlockMove s t := by
  cases hp : s.ph with
  | idle => rw [blockStep_idle hp] at h; cases h; exact .idle hp
  | first =>
    rw [blockStep_first hp] at h
    obtain ⟨p, hscan, h⟩ := withValue_next h
    cases h; exact .first hp hscan
  | skip =>
    rw [blockStep_skip hp] at h
    obtain ⟨c, hstart, h⟩ := withValue_next h
    cases h; exact .skip hp hstart
  | next =>
    rw [blockStep_next hp] at h
    obtain ⟨p, hscan, h⟩ := withValue_next h
    cases h; exact .next hp hscan
  | single =>
    rw [blockStep_single hp, phaseSingle] at h
    rcases emitStep_cases (fun t => present t.work.mark none t.work.cur t.work.ulen t)
      (toPhase .adv) s with ⟨hv, g⟩ | ⟨hv, ha, g⟩ | ⟨a, rest, hv, ha, g⟩
    · rw [g] at h; cases h; exact .singlePut hp hv
    · rw [g] at h; cases h; exact .stall (.inl hp) hv ha
    · rw [g] at h; cases h; exact .singleTake hp hv ha
  | fragInit =>
    rw [blockStep_fragInit hp] at h
    rcases Nat.lt_or_ge s.work.ulen 2 with hshort | hlong
    · rw [phaseFragInit_short hshort] at h; cases h; exact .shortUnit hp hshort
    · rw [phaseFragInit_long hlong] at h
      obtain ⟨b0, h0, h⟩ := withValue_next h
      obtain ⟨b1, h1, h⟩ := withValue_next h
      cases h; exact .fragInit hp hlong h0 h1
  | fragLoop =>
    rw [blockStep_fragLoop hp] at h
    by_cases hemit : s.pk.valid = true ∨ s.work.flen < s.work.rem
    · rw [phaseFragLoop_emit hemit] at h
      rcases emitStep_cases
        (fun t => present false (some t.work.fuBytes) t.work.off t.work.flen t) fragAdvance s with
        ⟨hv, g⟩ | ⟨hv, ha, g⟩ | ⟨a, rest, hv, ha, g⟩
      · have hmore : s.work.flen < s.work.rem := hemit.resolve_left (by simp [hv])
        rw [g] at h; cases h; exact .fragPut hp hv hmore
      · rw [g] at h; cases h; exact .stall (.inr (.inl hp)) hv ha
      · rw [g] at h; cases h; exact .fragTake hp hv ha
    · obtain ⟨hv, hlast⟩ := not_or.1 hemit
      replace hv := Bool.eq_false_iff.2 hv
      rw [phaseFragLoop_leave hv (Nat.not_lt.1 hlast)] at h
      cases h; exact .fragLeave hp hv (Nat.not_lt.1 hlast)
  | fragLast =>
    rw [blockStep_fragLast hp, phaseFragLast] at h
    rcases emitStep_cases presentLast (toPhase .adv) s with
      ⟨hv, g⟩ | ⟨hv, ha, g⟩ | ⟨a, rest, hv, ha, g⟩
    · rw [g] at h; cases h; exact .lastPut hp hv
    · rw [g] at h; cases h; exact .stall (.inr (.inr hp)) hv ha
    · rw [g] at h; cases h; exact .lastTake hp hv ha
  | adv => rw [blockStep_adv hp] at h; cases h; exact .adv hp
  | finish => rw [blockStep_finish hp] at h; cases h; exact .finish hp

/-- Each of the moves is the block's own step. -/
theorem BlockMove.blockStep_eq {s t : State} (h : BlockMove s t) : blockStep s = .next t := by
  cases h with
  | idle hp => exact blockStep_idle hp
  | first hp hscan => rw [blockStep_first hp, phaseFirst, hscan]; rfl
  | skip hp hstart => rw [blockStep_skip hp, phaseSkip, hstart]; rfl
  | next hp hscan => rw [blockStep_next hp, phaseNext, hscan]; rfl
  | stall hp hv ha =>
    rcases hp with hp | hp | hp
    · rw [blockStep_single hp]; exact emitStep_stall hv ha
    · rw [blockStep_fragLoop hp, phaseFragLoop_emit (.inl hv)]; exact emitStep_stall hv ha
    · rw [blockStep_fragLast hp]; exact emitStep_stall hv ha
  | singlePut hp hv => rw [blockStep_single hp]; exact emitStep_put hv
  | singleTake hp hv ha => rw [blockStep_single hp]; exact emitStep_take hv ha
  | shortUnit hp hshort => rw [blockStep_fragInit hp, phaseFragInit_short hshort]
  | fragInit hp hlong h0 h1 =>
    rw [blockStep_fragInit hp, phaseFragInit_long hlong, h0, withValue_ok, h1, withValue_ok]
  | fragPut hp hv hmore =>
    rw [blockStep_fragLoop hp, phaseFragLoop_emit (.inr hmore)]; exact emitStep_put hv
  | fragTake hp hv ha =>
    rw [blockStep_fragLoop hp, phaseFragLoop_emit (.inl hv)]; exact emitStep_take hv ha
  | fragLeave hp hv hlast => rw [blockStep_fragLoop hp, phaseFragLoop_leave hv hlast]
  | lastPut hp hv => rw [blockStep_fragLast hp]; exact emitStep_put hv
  | lastTake hp hv ha => rw [blockStep_fragLast hp]; exact emitStep_take hv ha
  | adv hp => rw [blockStep_adv hp]; rfl
  | finish hp => rw [blockStep_finish hp]; rfl

/-- In IDLE the block stays as it is (R158). -/
theorem BlockMove.eq_of_idle {s t : State} (h : BlockMove s t) (hp : s.ph = .idle) : t = s :=
  Host.Outcome.next.inj (h.blockStep_eq.symm.trans (blockStep_idle hp))

/-- In FINISH the operation completes (R120). -/
theorem BlockMove.eq_of_finish {s t : State} (h : BlockMove s t) (hp : s.ph = .finish) :
    t = complete s :=
  Host.Outcome.next.inj (h.blockStep_eq.symm.trans (blockStep_finish hp))

/-- What no own step of the block touches (R36, R37, R16, R17, R5). -/
structure OwnFrame (s t : State) : Prop where
  buf     : t.buf = s.buf
  opr     : t.opr = s.opr
  res     : t.res = s.res
  written : t.written = s.written
  fuType  : t.fuType = s.fuType
  widths  : t.widths = s.widths
  host    : t.host = s.host

theorem BlockMove.frame {s t : State} (h : BlockMove s t) : OwnFrame s t := by
  cases h <;> exact ⟨rfl, rfl, rfl, rfl, rfl, rfl, rfl⟩

/-! ### The phases of PKT, in every turn that is the block's own -/

theorem step_of_move {s b t : State} (hown : TakesOwnStep s b) (h : BlockMove b t) :
    step s = .next t := by
  rw [step_of_takesOwnStep hown, h.blockStep_eq]

/-- Settles O22: over a bound buffer the scan from 0 answers. -/
theorem phaseFirstLocatesFirstStartCode : Obligations.PhaseFirstLocatesFirstStartCode := by
  intro s b hown hp hbound
  obtain ⟨p, hscan, hp'⟩ := scan_of_boundTo hbound 0
  exact ⟨p, hp', hp'.le_len, step_of_move hown (.first hp hscan)⟩

/-- Settles O23: over a bound buffer the zero run ends. -/
theorem phaseSkipPassesTheZeroRun : Obligations.PhaseSkipPassesTheZeroRun := by
  intro s b hown hp hbound hr
  obtain ⟨c, hstart, hc⟩ := unitStart_of_boundTo hbound hr
  exact ⟨c, hc, step_of_move hown (.skip hp hstart)⟩

/-- Settles O24: over a bound buffer the scan from CUR answers. -/
theorem phaseNextDelimitsTheUnit : Obligations.PhaseNextDelimitsTheUnit := by
  intro s b hown hp hbound hcur
  obtain ⟨p, hscan, hp'⟩ := scan_of_boundTo hbound b.work.cur
  exact ⟨p, hp', hp'.pos_le hcur, hp'.le_len, step_of_move hown (.next hp hscan)⟩

/-- What one answer adds to RESULT (R122; log entry 24). -/
theorem sinkCode_of_answer (a : Nat) :
    (if sinkFailed a then sinkCode else 0) = if a = 0 then (0 : BitVec 3) else 1 := by
  unfold sinkFailed sinkCode
  by_cases h : a = 0
  · subst h; rfl
  · simp [h]

/-- The block once a packet's answer is taken (R121, R122). -/
theorem answered_eq (a : Nat) (rest : List Nat) (s : State) :
    answered a rest s =
      { s with
        result := s.result ||| (if a = 0 then 0 else 1)
        pk := { s.pk with valid := false, s := a }
        sink := { answers := rest, received := s.sink.received ++ [(packetView s.pk, a)] } } := by
  rw [← sinkCode_of_answer]
  rfl

/-- Settles O25: the packet presented, then the answer taken. -/
theorem phaseSingleEmitsTheWholeUnit : Obligations.PhaseSingleEmitsTheWholeUnit := by
  intro s b hown hp
  refine ⟨fun hv => ⟨_, step_of_move hown (.singlePut hp hv), rfl, rfl, rfl⟩,
    fun a rest hv ha => ?_⟩
  rw [step_of_move hown (.singleTake hp hv ha), answered_eq]
  rfl

/-- The header build of R116 in plain arithmetic: F = 0, layer 0, FU_TYPE, the unit's temporal id,
and 0x80 | type. -/
theorem firstFuBytes_arith (u : BitVec 6) (b0 b1 : Byte) :
    firstFuBytes u b0 b1 =
      ⟨BitVec.ofNat 8 (u.toNat * 2), BitVec.ofNat 8 (b1.toNat % 8),
        BitVec.ofNat 8 (128 + b0.toNat / 2 % 64)⟩ := by
  have h0 : ∀ u : BitVec 6, fuByte0 u = BitVec.ofNat 8 (u.toNat * 2) := by decide
  have h1 : ∀ d : BitVec 3, fuByte1 d = BitVec.ofNat 8 d.toNat := by decide
  have h2 : ∀ t : BitVec 6, fuByte2 1 0 t = BitVec.ofNat 8 (128 + t.toNat) := by decide
  rw [firstFuBytes_eq, h0, h1, h2, headerOfBytes_d_toNat, headerOfBytes_t_toNat]

/-- The working registers FRAG_INIT leaves hold the first fragmentation header (R116). -/
theorem fragHeader_eq (u : BitVec 6) (b0 b1 : Byte) (w : Working) :
    fragHeader u b0 b1 w =
      { w with
        fu0 := (firstFuBytes u b0 b1).b0, fu1 := (firstFuBytes u b0 b1).b1
        fu2 := (firstFuBytes u b0 b1).b2, off := w.cur + 2, rem := w.ulen - 2 } := rfl

/-- Settles O26: both header bytes are read, and `firstFuBytes_arith` gives the header. -/
theorem phaseFragInitBuildsTheHeader : Obligations.PhaseFragInitBuildsTheHeader := by
  intro s b b0 b1 hown hp hlong hin h0 h1
  have hread0 : memReadByte b.buf b.opr.len b.work.cur = .ok b0 := memReadByte_ok (by omega) h0
  have hread1 : memReadByte b.buf b.opr.len (b.work.cur + 1) = .ok b1 :=
    memReadByte_ok (by omega) h1
  rw [step_of_move hown (.fragInit hp hlong hread0 hread1), fragHeader_eq, firstFuBytes_arith]
  rfl

/-- Settles O27: the move of a unit under two bytes. -/
theorem shortUnitRaisesDecAndIsDropped : Obligations.ShortUnitRaisesDecAndIsDropped := by
  intro s b hown hp hshort
  rw [step_of_move hown (.shortUnit hp hshort)]
  rfl

/-- Settles O28: a fragment presented, the phase left, an answer taken. -/
theorem phaseFragLoopEmitsNonFinalFragments : Obligations.PhaseFragLoopEmitsNonFinalFragments := by
  intro s b hown hp
  refine ⟨fun hv hmore => ⟨_, step_of_move hown (.fragPut hp hv hmore), rfl, rfl, rfl⟩,
    fun hv hlast => step_of_move hown (.fragLeave hp hv hlast), fun a rest hv ha => ?_⟩
  rw [step_of_move hown (.fragTake hp hv ha), answered_eq]
  rfl

/-- Settles O29: the packet presented, then the answer taken. -/
theorem phaseFragLastEmitsTheFinalFragment : Obligations.PhaseFragLastEmitsTheFinalFragment := by
  intro s b hown hp
  refine ⟨fun hv => ⟨_, step_of_move hown (.lastPut hp hv), rfl, rfl, rfl⟩, fun a rest hv ha => ?_⟩
  rw [step_of_move hown (.lastTake hp hv ha), answered_eq]
  rfl

/-- Settles O30: the two moves. -/
theorem advAndFinishEndTheUnitAndTheOperation :
    Obligations.AdvAndFinishEndTheUnitAndTheOperation := by
  intro s b hown
  exact ⟨fun hp => step_of_move hown (.adv hp), fun hp => step_of_move hown (.finish hp)⟩

/-! ### A step while an operation is in progress -/

theorem withHost_busy_ne_false {s : State} {h : List HostEvent} (hb : s.busy = true) :
    (s.withHost h).busy ≠ false := by
  simp [hb]

/-- While BUSY = 1 a step that is no reset is a move of the block (R19, R36; log entries 6, 8). -/
theorem blockMove_of_busy_step {s t : State} (hb : s.busy = true) (hr : noReset s = true)
    (h : step s = .next t) : ∃ rest, BlockMove (s.withHost rest) t := by
  rcases step_cases s with ⟨rest, g⟩ | ⟨c, rest, hidle, -⟩ | ⟨i, rest, hi, g⟩ |
    ⟨base, a, bytes, rest, -, g⟩ | ⟨rest, hhost, -⟩
  · rw [g] at h
    exact ⟨rest, blockMove_of_blockStep h⟩
  · rw [hb] at hidle; cases hidle
  · obtain ⟨bytes, hbytes⟩ := encode_of_not_isCommand hi
    rw [g, exec_of_encode_stream hbytes] at h
    exact absurd (hostStore_next h).1 (withHost_busy_ne_false hb)
  · rw [g] at h
    exact absurd (hostStore_next h).1 (withHost_busy_ne_false hb)
  · simp [noReset, hhost] at hr

/-- Settles O41: a move keeps all of it. -/
theorem operationKeepsBufferOperandsAndResults :
    Obligations.OperationKeepsBufferOperandsAndResults := by
  intro s t hb hr h
  obtain ⟨rest, hmove⟩ := blockMove_of_busy_step hb hr h
  obtain ⟨hbuf, hopr, hres, hwritten, hfu, hwidths, -⟩ := hmove.frame
  exact ⟨hbuf, hopr, hres, hwritten, hfu, hwidths⟩

/-- A move only adds bits to RESULT (R20). -/
theorem BlockMove.result_eq {s t : State} (h : BlockMove s t) :
    ∃ x, t.result = s.result ||| x := by
  cases h with
  | singleTake | fragTake | lastTake | shortUnit => exact ⟨_, rfl⟩
  | _ => exact ⟨0, BitVec.or_zero.symm⟩

/-- Settles O42: a move only joins bits into RESULT. -/
theorem resultBitsAreSticky : Obligations.ResultBitsAreSticky := by
  intro s t hb hr h k hk
  obtain ⟨rest, hmove⟩ := blockMove_of_busy_step hb hr h
  obtain ⟨x, hx⟩ := hmove.result_eq
  rw [hx, BitVec.getLsbD_or, withHost_result, hk, Bool.true_or]

/-! ### The packet port -/

/-- What a move does with a packet on the port: it stays, or its answer is taken (R121, R165). -/
theorem BlockMove.port_cases {s t : State} (h : BlockMove s t) (hv : s.pk.valid = true) :
    (t.pk = s.pk ∧ t.sink = s.sink) ∨
    (∃ a rest, s.sink.answers = a :: rest ∧
      t.pk = { s.pk with valid := false, s := s.widths.answer a } ∧
      t.sink = { answers := rest
                 received := s.sink.received ++ [(packetView s.pk, s.widths.answer a)] }) := by
  cases h with
  | singlePut _ hno => rw [hv] at hno; cases hno
  | fragPut _ hno _ => rw [hv] at hno; cases hno
  | lastPut _ hno => rw [hv] at hno; cases hno
  | singleTake _ _ ha => exact .inr ⟨_, _, ha, rfl, rfl⟩
  | fragTake _ _ ha => exact .inr ⟨_, _, ha, rfl, rfl⟩
  | lastTake _ _ ha => exact .inr ⟨_, _, ha, rfl, rfl⟩
  | _ => exact .inl ⟨rfl, rfl⟩

/-- What one step that is no reset can be: a move of the block, or a transaction that leaves the
packet port, the sink and the working registers. -/
theorem step_next_cases {s t : State} (h : step s = .next t) :
    (∃ rest, BlockMove (s.withHost rest) t) ∨
    (∃ i rest, s.busy = false ∧ CommandEffect (s.withHost rest) i t) ∨
    (∃ base a bytes rest, (base = s.buf ∨ base = []) ∧ s.busy = false ∧
      a + bytes.length ≤ s.widths.maxLen ∧
      t = { s.withHost rest with buf := memWriteBytes base a bytes }) ∨
    (∃ rest, s.host = .reset :: rest ∧ t = resetBlock (s.withHost rest)) := by
  rcases step_cases s with ⟨rest, g⟩ | ⟨c, rest, hidle, g⟩ | ⟨i, rest, hi, g⟩ |
    ⟨base, a, bytes, rest, hbase, g⟩ | ⟨rest, hhost, g⟩
  · rw [g] at h
    exact .inl ⟨rest, blockMove_of_blockStep h⟩
  · rw [g] at h
    cases hi : isCommand (decodeCommand c) with
    | true => exact .inr (.inl ⟨_, rest, hidle, commandEffect_of_exec hi hidle h⟩)
    | false =>
      obtain ⟨bytes, hbytes⟩ := encode_of_not_isCommand hi
      rw [exec_of_encode_stream hbytes] at h
      obtain ⟨hb, hfit, ht⟩ := hostStore_next h
      exact .inr (.inr (.inl ⟨_, _, bytes, rest, .inl rfl, hb, hfit, ht⟩))
  · obtain ⟨bytes, hbytes⟩ := encode_of_not_isCommand hi
    rw [g, exec_of_encode_stream hbytes] at h
    obtain ⟨hb, hfit, ht⟩ := hostStore_next h
    exact .inr (.inr (.inl ⟨_, _, bytes, rest, .inl rfl, hb, hfit, ht⟩))
  · rw [g] at h
    obtain ⟨hb, hfit, ht⟩ := hostStore_next h
    exact .inr (.inr (.inl ⟨base, a, bytes, rest, hbase, hb, hfit, ht⟩))
  · rw [g] at h
    cases h
    exact .inr (.inr (.inr ⟨rest, hhost, rfl⟩))

/-- Settles O32: a move holds the packet or takes its answer; the host's transactions leave the
port. -/
theorem presentedPacketIsHeldUntilOneAnswer : Obligations.PresentedPacketIsHeldUntilOneAnswer := by
  intro s t hv hr h
  rcases step_next_cases h with ⟨rest, hmove⟩ | ⟨i, rest, -, heff⟩ |
    ⟨base, a, bytes, rest, -, -, -, rfl⟩ | ⟨rest, hhost, -⟩
  · exact hmove.port_cases hv
  · obtain ⟨-, hpk, -, -, -, -, hsink⟩ := heff.frame
    exact .inl ⟨hpk, hsink⟩
  · exact .inl ⟨rfl, rfl⟩
  · simp [noReset, hhost] at hr

/-! ### Waiting: an idle block, and a block without an answer -/

/-- Settles O33: an idle block without a transaction is a fixed point. -/
theorem idleBlockWaits : Obligations.IdleBlockWaits := by
  intro s hp hhost k
  induction k with
  | zero => rfl
  | succ k ih =>
    have hstep : step s = .next s := by rw [step_of_host_nil hhost, blockStep_idle hp]
    rw [core_run_succ hstep, ih]

/-- The block steps in a state whose host list is a rest of the turn's. -/
theorem TakesOwnStep.host_suffix {s b : State} (h : TakesOwnStep s b) : b.host <:+ s.host := by
  unfold TakesOwnStep at h
  rcases hh : s.host with _ | ⟨e, rest⟩
  · rw [hh] at h; subst h; rw [hh]
  · rw [hh] at h
    cases e with
    | wait => subst h; exact List.suffix_cons _ rest
    | command c hold =>
      obtain ⟨-, rfl⟩ := h
      cases hold with
      | true => rw [if_pos rfl, hh]
      | false => exact List.suffix_cons _ rest
    | stream | bind | store | reset => exact h.elim

/-- A turn in which the host does nothing, or waits or presents commands to a busy block, is the
block's own, and what the host goes on with is of the same kind. -/
theorem takesOwnStep_of_nil_or_quiet {s : State}
    (h : s.host = [] ∨ (s.busy = true ∧ quietHost s = true)) :
    ∃ b, TakesOwnStep s b ∧ (b.host = [] ∨ (b.busy = true ∧ quietHost b = true)) := by
  rcases h with hnil | ⟨hb, hq⟩
  · refine ⟨s, ?_, .inl hnil⟩
    unfold TakesOwnStep
    rw [hnil]
  · obtain ⟨b, hown, hq'⟩ := takesOwnStep_of_quiet hb hq
    refine ⟨b, hown, .inr ⟨?_, hq'⟩⟩
    rw [hown.eq_withHost]
    exact hb

/-- Settles O31: each turn is the block's own and the block waits in it; only the list moves on. -/
theorem unansweredPacketStallsTheBlock : Obligations.UnansweredPacketStallsTheBlock := by
  intro s hhost hv ha hp k
  induction k generalizing s with
  | zero => exact ⟨s.host, List.suffix_rfl, rfl⟩
  | succ k ih =>
    obtain ⟨b, hown, hhost'⟩ := takesOwnStep_of_nil_or_quiet hhost
    have hb := hown.eq_withHost
    have hstall : BlockMove b b := .stall (by rw [hb]; exact hp) (by rw [hb]; exact hv)
      (by rw [hb]; exact ha)
    obtain ⟨rest, hsuffix, hrun⟩ := ih b hhost' (by rw [hb]; exact hv) (by rw [hb]; exact ha)
      (by rw [hb]; exact hp)
    refine ⟨rest, hsuffix.trans hown.host_suffix, ?_⟩
    rw [core_run_succ (step_of_move hown hstall), hrun, hb]
    rfl

/-! ### Reset (R27, R157) -/

/-- After reset the response port shows no result register (R17, R27). -/
theorem readReg_of_written_reset {s : State} (h : s.written = Written.reset) (r : ResultReg) :
    readReg s r = none := by
  rw [readReg_eq, h]
  cases r <;> rfl

/-- Settles O37: by the reset values. -/
theorem resetLeavesNoDefinedResult : Obligations.ResetLeavesNoDefinedResult :=
  ⟨rfl, rfl, rfl, rfl, rfl, readReg_of_written_reset rfl⟩

/-- Settles O38: the turn is a reset of the block, which keeps what is not the block's. -/
theorem resetAbandonsTheOperation : Obligations.ResetAbandonsTheOperation := by
  intro s rest hhost
  exact ⟨_, step_reset hhost, rfl, rfl, rfl, rfl, rfl, rfl, rfl, rfl, rfl,
    readReg_of_written_reset rfl⟩

end Sys2Proof.Machine

/-! PROOF. The invariant: it holds at reset and every step keeps it; what follows from it for the
reads of the block, for its progress and for the packet it presents. -/

namespace Sys2Proof.Machine

/-! ### The invariant at reset and in an idle block -/

theorem pow_width_pos (n : Nat) : 0 < 2 ^ n := Nat.pow_pos (by decide)

/-- The registers at their reset values fit every width (log entry 3). -/
theorem registersFit_of_reset {s : State} (ho : s.opr = Operands.reset) (hr : s.res = Results.reset)
    (hw : s.work = Working.reset) (hp : s.pk = PacketPort.reset) : RegistersFit s := by
  constructor <;> simp only [ho, hr, hw, hp] <;> exact pow_width_pos _

/-- A block as reset leaves it meets the invariant if its buffer is canonical (R27, R156). -/
theorem inv_resetBlock {s : State} (h : Memory.wf s.widths.maxLen s.buf = true) :
    Inv (resetBlock s) where
  mem := h
  fits := registersFit_of_reset rfl rfl rfl rfl
  busy := by simp
  excl := by simp
  port := fun hv => by cases hv
  dec := by simp
  param := by simp
  phase := trivial

/-- Settles O35: the state after reset is a reset block with an empty buffer. -/
theorem resetMeetsTheInvariant : Obligations.ResetMeetsTheInvariant :=
  inv_resetBlock (s := State.reset) rfl

theorem Inv.ph_idle {s : State} (h : Inv s) (hb : s.busy = false) : s.ph = .idle := by
  have := h.busy
  rw [hb] at this
  simpa using this.symm

/-- Outside the emitting phases no packet is on the port (R26). -/
theorem Inv.pk_valid_eq_false {s : State} (h : Inv s) {p : Phase} (hp : s.ph = p)
    (h1 : p ≠ .single) (h2 : p ≠ .fragLoop) (h3 : p ≠ .fragLast) : s.pk.valid = false := by
  subst hp
  cases hv : s.pk.valid with
  | false => rfl
  | true => rcases h.port hv with g | g | g <;> contradiction

/-- In IDLE the phase says nothing. -/
theorem phaseFrame_idle {s : State} (h : s.ph = .idle) : PhaseFrame s := by
  unfold PhaseFrame
  rw [h]
  trivial

/-- A store of the host keeps the invariant (R35, R36). -/
theorem Inv.store {s : State} (h : Inv s) (hb : s.busy = false) {m : Memory}
    (hm : Memory.wf s.widths.maxLen m = true) : Inv { s with buf := m } where
  mem := hm
  fits := h.fits.of_eq rfl rfl rfl rfl rfl
  busy := h.busy
  excl := h.excl
  port := h.port
  dec := h.dec
  param := h.param
  phase := phaseFrame_idle (h.ph_idle hb)

/-! ### The invariant under a command -/

/-- The operand and result registers with a width of R5, at that width (R16, R17). -/
structure PortsFit (w : Widths) (o : Operands) (v : Results) : Prop where
  pos   : o.pos < 2 ^ w.aw
  len   : o.len < 2 ^ w.aw
  maxsz : o.maxsz < 2 ^ w.aw
  ctx   : o.ctx < 2 ^ w.ctxw
  tin   : o.tin < 2 ^ w.tw
  din   : o.din < 2 ^ w.tw
  rpos  : v.rpos < 2 ^ w.aw

theorem RegistersFit.ports {s : State} (h : RegistersFit s) : PortsFit s.widths s.opr s.res :=
  ⟨h.pos, h.len, h.maxsz, h.ctx, h.tin, h.din, h.rpos⟩

/-- The registers fit if those on the ports do and the working registers and the packet port are
those of a state whose registers fit. -/
theorem RegistersFit.of_ports {s t : State} (h : RegistersFit s) (hn : t.widths = s.widths)
    (hw : t.work = s.work) (hp : t.pk = s.pk) (hports : PortsFit s.widths t.opr t.res) :
    RegistersFit t := by
  constructor <;> simp only [hn, hw, hp]
  exacts [hports.pos, hports.len, hports.maxsz, hports.ctx, hports.tin, hports.din, hports.rpos,
    h.r, h.cur, h.r1, h.ulen, h.flen, h.off, h.rem, h.pkOff, h.pkLen, h.pkCtx, h.pkS]

theorem pos_lt (w : Widths) (n : Nat) : w.pos n < 2 ^ w.aw := Nat.mod_lt _ (pow_width_pos _)

theorem typ_lt (w : Widths) (n : Nat) : w.typ n < 2 ^ w.tw := Nat.mod_lt _ (pow_width_pos _)

theorem ctx_lt (w : Widths) (n : Nat) : w.ctx n < 2 ^ w.ctxw := Nat.mod_lt _ (pow_width_pos _)

theorem answer_lt (w : Widths) (n : Nat) : w.answer n < 2 ^ w.sinkw :=
  Nat.mod_lt _ (pow_width_pos _)

/-- Every command leaves operand and result registers that fit (R16, R17, R54). -/
theorem CommandEffect.portsFit {i : Instr} {s t : State} (h : CommandEffect s i t)
    (hs : PortsFit s.widths s.opr s.res) : PortsFit s.widths t.opr t.res := by
  cases h with
  | scan hscan =>
    exact ⟨pos_lt _ _, pos_lt _ _, hs.maxsz, hs.ctx, hs.tin, hs.din,
      (scan_ok hscan).le_len.trans_lt (pos_lt _ _)⟩
  | sclen hskip => exact ⟨pos_lt _ _, pos_lt _ _, hs.maxsz, hs.ctx, hs.tin, hs.din, hs.rpos⟩
  | henc => exact ⟨hs.pos, hs.len, hs.maxsz, hs.ctx, typ_lt _ _, typ_lt _ _, hs.rpos⟩
  | iskey => exact ⟨hs.pos, hs.len, hs.maxsz, hs.ctx, typ_lt _ _, hs.din, hs.rpos⟩
  | pkt =>
    rw [checkMaxsz_accept]
    exact ⟨hs.pos, pos_lt _ _, pos_lt _ _, ctx_lt _ _, hs.tin, hs.din, hs.rpos⟩
  | hdec | reserved6 | reserved7 =>
    exact ⟨hs.pos, hs.len, hs.maxsz, hs.ctx, hs.tin, hs.din, hs.rpos⟩

/-- What a command leaves in STATUS, RESULT and PH: it completed, with PARAM as its only error; or
it is a PKT accepted, with PARAM raised or the parameter check passed (R28, R55, R107, R108). -/
theorem CommandEffect.outcome {i : Instr} {s t : State} (h : CommandEffect s i t) :
    (t.status = 2 ∧ t.ph = .idle ∧ (t.result = 0 ∨ t.result = 4)) ∨
    (t.status = 1 ∧ t.ph = .finish ∧ t.result = 4) ∨
    (t.status = 1 ∧ t.ph = .first ∧ t.result = 0 ∧ 4 ≤ t.opr.maxsz) := by
  cases h with
  | pkt len maxsz ts ctx =>
    rw [checkMaxsz_accept]
    by_cases hm : (loadP s.widths 5 len maxsz ts ctx s.opr).maxsz ≤ 3
    · exact .inr (.inl ⟨rfl, if_pos hm, if_pos hm⟩)
    · exact .inr (.inr ⟨rfl, if_neg hm, if_neg hm, Nat.lt_of_not_le hm⟩)
  | reserved6 => exact .inl ⟨rfl, rfl, .inr (raiseParam_accept_result _ s)⟩
  | reserved7 => exact .inl ⟨rfl, rfl, .inr (raiseParam_accept_result _ s)⟩
  | scan | sclen | hdec | henc | iskey => exact .inl ⟨rfl, rfl, .inl rfl⟩

theorem busy_of_status {s : State} {x : BitVec 2} (h : s.status = x) : s.busy = x.getLsbD 0 := by
  rw [State.busy, h]

theorem done_of_status {s : State} {x : BitVec 2} (h : s.status = x) : s.done = x.getLsbD 1 := by
  rw [State.done, h]

/-- RESULT with no bit but PARAM's. -/
theorem errors_of_result {s : State} (h : s.result = 0 ∨ s.result = 4) :
    s.decErr = false ∧ s.sinkErr = false := by
  rcases h with h | h <;> simp [State.decErr, State.sinkErr, h]

/-- A command keeps the invariant. -/
theorem CommandEffect.inv {i : Instr} {s t : State} (h : CommandEffect s i t) (hs : Inv s)
    (hb : s.busy = false) : Inv t := by
  obtain ⟨hwork, hpk, hwidths, hfu, hbuf, -, -⟩ := h.frame
  have hmem : Memory.wf t.widths.maxLen t.buf = true := by rw [hwidths, hbuf]; exact hs.mem
  have hfits := hs.fits.of_ports hwidths hwork hpk (h.portsFit hs.fits.ports)
  have hport : t.pk.valid = false := by
    rw [hpk]
    exact hs.pk_valid_eq_false (hs.ph_idle hb) nofun nofun nofun
  have hno : t.pk.valid = true → t.ph = .single ∨ t.ph = .fragLoop ∨ t.ph = .fragLast :=
    fun hv => by rw [hport] at hv; cases hv
  rcases h.outcome with ⟨hst, hp, hres⟩ | ⟨hst, hp, hres⟩ | ⟨hst, hp, hres, hmax⟩
  · obtain ⟨hdec, hsink⟩ := errors_of_result hres
    exact ⟨hmem, hfits, by rw [busy_of_status hst, hp]; decide, by simp [busy_of_status hst], hno,
      hdec, fun _ => ⟨hsink, .inl hp⟩, phaseFrame_idle hp⟩
  · obtain ⟨hdec, hsink⟩ := errors_of_result (.inr hres)
    exact ⟨hmem, hfits, by rw [busy_of_status hst, hp]; decide, by simp [done_of_status hst], hno,
      hdec, fun _ => ⟨hsink, .inr hp⟩, by unfold PhaseFrame; rw [hp]; trivial⟩
  · obtain ⟨hdec, hsink⟩ := errors_of_result (.inl hres)
    exact ⟨hmem, hfits, by rw [busy_of_status hst, hp]; decide, by simp [done_of_status hst], hno,
      hdec, fun hpar => by simp [State.paramErr, hres] at hpar,
      by unfold PhaseFrame; rw [hp]; exact hmax⟩

/-! ### What the invariant says in each phase -/

section Phase

variable {s : State}

theorem phaseFrame_first (hp : s.ph = .first) : PhaseFrame s ↔ 4 ≤ s.opr.maxsz := by
  rw [PhaseFrame, hp]

theorem phaseFrame_skip (hp : s.ph = .skip) :
    PhaseFrame s ↔ 4 ≤ s.opr.maxsz ∧ MatchAt s.buf s.opr.len s.work.r := by
  rw [PhaseFrame, hp]

theorem phaseFrame_next (hp : s.ph = .next) :
    PhaseFrame s ↔ 4 ≤ s.opr.maxsz ∧ s.work.r + 3 ≤ s.work.cur ∧ s.work.cur ≤ s.opr.len ∧
      AtUnitStart s := by
  rw [PhaseFrame, hp]

theorem phaseFrame_single (hp : s.ph = .single) :
    PhaseFrame s ↔ UnitFrame s ∧ s.work.ulen ≤ s.opr.maxsz ∧
      (s.pk.valid = true → PortHolds s s.work.mark none s.work.cur s.work.ulen) := by
  rw [PhaseFrame, hp]

theorem phaseFrame_fragInit (hp : s.ph = .fragInit) :
    PhaseFrame s ↔ UnitFrame s ∧ s.opr.maxsz < s.work.ulen := by
  rw [PhaseFrame, hp]

theorem phaseFrame_fragLoop (hp : s.ph = .fragLoop) :
    PhaseFrame s ↔ FragFrame s ∧ endBit s.work.fu2 = false ∧
      startBit s.work.fu2 = decide (s.work.off = s.work.cur + 2) ∧
      (s.pk.valid = true → s.work.flen < s.work.rem ∧
        PortHolds s false (some s.work.fuBytes) s.work.off s.work.flen) := by
  rw [PhaseFrame, hp]

theorem phaseFrame_fragLast (hp : s.ph = .fragLast) :
    PhaseFrame s ↔ FragFrame s ∧ s.work.rem ≤ s.work.flen ∧ startBit s.work.fu2 = false ∧
      s.work.cur + 2 < s.work.off ∧ endBit s.work.fu2 = s.pk.valid ∧
      (s.pk.valid = true →
        PortHolds s s.work.mark (some s.work.fuBytes) s.work.off s.work.rem) := by
  rw [PhaseFrame, hp]

theorem phaseFrame_adv (hp : s.ph = .adv) : PhaseFrame s ↔ UnitFrame s := by
  rw [PhaseFrame, hp]

theorem phaseFrame_finish (hp : s.ph = .finish) : PhaseFrame s := by
  rw [PhaseFrame, hp]
  trivial

theorem Inv.first (h : Inv s) (hp : s.ph = .first) : 4 ≤ s.opr.maxsz :=
  (phaseFrame_first hp).1 h.phase

theorem Inv.skip (h : Inv s) (hp : s.ph = .skip) :
    4 ≤ s.opr.maxsz ∧ MatchAt s.buf s.opr.len s.work.r :=
  (phaseFrame_skip hp).1 h.phase

theorem Inv.next (h : Inv s) (hp : s.ph = .next) :
    4 ≤ s.opr.maxsz ∧ s.work.r + 3 ≤ s.work.cur ∧ s.work.cur ≤ s.opr.len ∧ AtUnitStart s :=
  (phaseFrame_next hp).1 h.phase

theorem Inv.single (h : Inv s) (hp : s.ph = .single) :
    UnitFrame s ∧ s.work.ulen ≤ s.opr.maxsz ∧
      (s.pk.valid = true → PortHolds s s.work.mark none s.work.cur s.work.ulen) :=
  (phaseFrame_single hp).1 h.phase

theorem Inv.fragInit (h : Inv s) (hp : s.ph = .fragInit) :
    UnitFrame s ∧ s.opr.maxsz < s.work.ulen :=
  (phaseFrame_fragInit hp).1 h.phase

theorem Inv.fragLoop (h : Inv s) (hp : s.ph = .fragLoop) :
    FragFrame s ∧ endBit s.work.fu2 = false ∧
      startBit s.work.fu2 = decide (s.work.off = s.work.cur + 2) ∧
      (s.pk.valid = true → s.work.flen < s.work.rem ∧
        PortHolds s false (some s.work.fuBytes) s.work.off s.work.flen) :=
  (phaseFrame_fragLoop hp).1 h.phase

theorem Inv.fragLast (h : Inv s) (hp : s.ph = .fragLast) :
    FragFrame s ∧ s.work.rem ≤ s.work.flen ∧ startBit s.work.fu2 = false ∧
      s.work.cur + 2 < s.work.off ∧ endBit s.work.fu2 = s.pk.valid ∧
      (s.pk.valid = true →
        PortHolds s s.work.mark (some s.work.fuBytes) s.work.off s.work.rem) :=
  (phaseFrame_fragLast hp).1 h.phase

theorem Inv.adv (h : Inv s) (hp : s.ph = .adv) : UnitFrame s := (phaseFrame_adv hp).1 h.phase

/-- A unit longer than MAXSZ has two header bytes and more. -/
theorem Inv.fragInit_long (h : Inv s) (hp : s.ph = .fragInit) :
    5 ≤ s.work.ulen ∧ s.work.cur + s.work.ulen ≤ s.opr.len := by
  obtain ⟨hunit, hbig⟩ := h.fragInit hp
  have hmax := hunit.maxsz
  have hstop := hunit.stop
  have hulen := hunit.ulen
  have hr1 := hunit.r1_le
  omega

end Phase

/-! ### The working registers and the packet port fit (R131, R21, R23) -/

/-- The registers an own step may write, at their widths. -/
structure WorkFit (w : Widths) (k : Working) (p : PacketPort) : Prop where
  r     : k.r < 2 ^ w.aw
  cur   : k.cur < 2 ^ w.aw
  r1    : k.r1 < 2 ^ w.aw
  ulen  : k.ulen < 2 ^ w.aw
  flen  : k.flen < 2 ^ w.aw
  off   : k.off < 2 ^ w.aw
  rem   : k.rem < 2 ^ w.aw
  pkOff : p.off < 2 ^ w.aw
  pkLen : p.len < 2 ^ w.aw
  pkCtx : p.ctx < 2 ^ w.ctxw
  pkS   : p.s < 2 ^ w.sinkw

theorem RegistersFit.workFit {s : State} (h : RegistersFit s) : WorkFit s.widths s.work s.pk :=
  ⟨h.r, h.cur, h.r1, h.ulen, h.flen, h.off, h.rem, h.pkOff, h.pkLen, h.pkCtx, h.pkS⟩

/-- The registers fit if those an own step may write do and the others are those of a state whose
registers fit. -/
theorem RegistersFit.of_work {s t : State} (h : RegistersFit s) (hf : OwnFrame s t)
    (hw : WorkFit s.widths t.work t.pk) : RegistersFit t := by
  constructor <;> simp only [hf.widths, hf.opr, hf.res]
  exacts [h.pos, h.len, h.maxsz, h.ctx, h.tin, h.din, h.rpos, hw.r, hw.cur, hw.r1, hw.ulen,
    hw.flen, hw.off, hw.rem, hw.pkOff, hw.pkLen, hw.pkCtx, hw.pkS]

/-- The start of a unit is inside the buffer or its end. -/
theorem unitStart_ok {m : Memory} {len r c : Nat} (hr : r + 3 ≤ len)
    (h : unitStart m len r = .ok c) : IsRunEnd m len (r + 3) c := by
  rcases unitStart_cases m len r hr with ⟨c', g, hc⟩ | ⟨a, -, -, -, g⟩
  · rw [h] at g; cases g; exact hc
  · rw [h] at g; cases g

theorem MatchAt.add_three_le {m : Memory} {len p : Nat} (h : MatchAt m len p) : p + 3 ≤ len :=
  h.1

/-- A move keeps the working registers and the packet port within their widths: every value written
is an operand or a position or length inside the buffer (R131). -/
theorem BlockMove.workFit {s t : State} (h : BlockMove s t) (hs : Inv s) :
    WorkFit s.widths t.work t.pk := by
  have hw := hs.fits.workFit
  have hlen := hs.fits.len
  have hctx := hs.fits.ctx
  cases h with
  | first hp hscan => exact { hw with r := (scan_ok hscan).le_len.trans_lt hlen }
  | skip hp hstart =>
    have hc := unitStart_ok (hs.skip hp).2.add_three_le hstart
    exact { hw with cur := hc.2.1.trans_lt hlen }
  | next hp hscan =>
    have hp1 := (scan_ok hscan).le_len.trans_lt hlen
    exact { hw with r1 := hp1, ulen := (Nat.sub_le _ _).trans_lt hp1 }
  | singlePut => exact { hw with pkOff := hw.cur, pkLen := hw.ulen, pkCtx := hctx }
  | singleTake | lastTake => exact { hw with pkS := answer_lt _ _ }
  | shortUnit => exact { hw with flen := (Nat.sub_le _ _).trans_lt hs.fits.maxsz }
  | fragInit hp =>
    obtain ⟨hlong, hin⟩ := hs.fragInit_long hp
    exact { hw with
      flen := (Nat.sub_le _ _).trans_lt hs.fits.maxsz
      off := (show s.work.cur + 2 ≤ s.opr.len by omega).trans_lt hlen
      rem := (Nat.sub_le _ _).trans_lt hw.ulen }
  | fragPut => exact { hw with pkOff := hw.off, pkLen := hw.flen, pkCtx := hctx }
  | fragTake hp hv =>
    obtain ⟨hfrag, -, -, hport⟩ := hs.fragLoop hp
    have hmore := (hport hv).1
    have htail := hfrag.tail
    exact { hw with
      off := (show s.work.off + s.work.flen ≤ s.work.r1 by omega).trans_lt hw.r1
      rem := (Nat.sub_le _ _).trans_lt hw.rem
      pkS := answer_lt _ _ }
  | lastPut => exact { hw with pkOff := hw.off, pkLen := hw.rem, pkCtx := hctx }
  | adv => exact { hw with r := hw.r1 }
  | idle | stall | fragLeave | finish => exact hw

/-! ### The phase's own part of the invariant -/

/-- A unit's frame looks at the operands, the buffer, R, CUR, R1, ULEN and MARK alone. -/
theorem UnitFrame.of_fields {s t : State} (h : UnitFrame s) (ho : t.opr = s.opr)
    (hb : t.buf = s.buf) (hr : t.work.r = s.work.r) (hc : t.work.cur = s.work.cur)
    (h1 : t.work.r1 = s.work.r1) (hu : t.work.ulen = s.work.ulen)
    (hm : t.work.mark = s.work.mark) : UnitFrame t where
  maxsz := by rw [ho]; exact h.maxsz
  start := by rw [hr, hc]; exact h.start
  stop := by rw [hc, h1]; exact h.stop
  unit := by unfold AtUnitStart; rw [hc, ho, hb]; exact h.unit
  hit := by rw [ho, hb, h1]; exact h.hit
  ulen := by rw [hu, h1, hc]; exact h.ulen
  mark := by rw [hm, h1, ho]; exact h.mark

/-- A fragmented unit's frame when OFF, REM and FU2 change: OFF and REM still meet at R1 and FU2
keeps the unit's type. -/
theorem FragFrame.of_moved {s t : State} (h : FragFrame s) (ho : t.opr = s.opr)
    (hb : t.buf = s.buf) (hf : t.fuType = s.fuType)
    (hw : t.work = { s.work with off := t.work.off, rem := t.work.rem, fu2 := t.work.fu2 })
    (hfrom : s.work.cur + 2 ≤ t.work.off) (htail : t.work.off + t.work.rem = s.work.r1)
    (hleft : 1 ≤ t.work.rem) (htype : t.work.fu2.setWidth 6 = s.work.fu2.setWidth 6) :
    FragFrame t := by
  obtain ⟨b0, b1, h0, h1, hfu0, hfu1, hfu2⟩ := h.head
  rw [← htype] at hfu2
  have hbase : UnitFrame t := h.base.of_fields ho hb (by rw [hw]) (by rw [hw]) (by rw [hw])
    (by rw [hw]) (by rw [hw])
  have hcur : t.work.cur = s.work.cur := by rw [hw]
  refine ⟨hbase, by rw [ho, hw]; exact h.big, by rw [ho, hw]; exact h.flen,
    by rw [hcur]; exact hfrom, by rw [htail, hw], hleft, b0, b1, by rw [hb, hcur]; exact h0,
    by rw [hb, hcur]; exact h1,
    by rw [hf, hw]; exact hfu0, by rw [hw]; exact hfu1, hfu2⟩

/-- The frame NEXT establishes for the unit it delimits (R111). -/
theorem Inv.unitFrame_next {s : State} (h : Inv s) (hp : s.ph = .next) {p : Nat}
    (hscan : scan s.buf s.opr.len s.work.cur = .ok p) (ph : Phase) :
    UnitFrame { s with
      work := { s.work with r1 := p, mark := decide (p = s.opr.len), ulen := p - s.work.cur }
      ph := ph } := by
  obtain ⟨hmax, hstart, hcur, hunit⟩ := h.next hp
  have hp' := scan_ok hscan
  refine ⟨hmax, hstart, hp'.pos_le hcur, hunit, ?_, rfl, rfl⟩
  rcases Nat.lt_or_ge p s.opr.len with hlt | hge
  · exact .inr (hp'.matchAt hlt)
  · exact .inl (le_antisymm hp'.le_len hge)

/-- The frame FRAG_INIT establishes for the fragments of the unit (R114, R116). -/
theorem Inv.fragFrame_fragInit {s : State} (h : Inv s) (hp : s.ph = .fragInit) {b0 b1 : Byte}
    (h0 : memReadByte s.buf s.opr.len s.work.cur = .ok b0)
    (h1 : memReadByte s.buf s.opr.len (s.work.cur + 1) = .ok b1) :
    FragFrame { setFlen s with
      work := fragHeader s.fuType b0 b1 (setFlen s).work, ph := .fragLoop } := by
  obtain ⟨hunit, hbig⟩ := h.fragInit hp
  have hmax := hunit.maxsz
  have hulen := hunit.ulen
  refine ⟨hunit.of_fields rfl rfl rfl rfl rfl rfl rfl, hbig, ?_, le_refl _, ?_, ?_, b0, b1,
    (memReadByte_ok_iff.1 h0).2, (memReadByte_ok_iff.1 h1).2, firstFuBytes_b0 s.fuType b0 b1,
    firstFuBytes_b1 s.fuType b0 b1, fu2First_type _⟩
  · change s.opr.maxsz - 3 + 3 = s.opr.maxsz
    omega
  · change s.work.cur + 2 + (s.work.ulen - 2) = s.work.r1
    omega
  · change 1 ≤ s.work.ulen - 2
    omega

/-- Each move leads to a state that meets what its phase says: one arrow of the phase diagram at a
time (R109 to R120). -/
theorem BlockMove.phaseFrame {s t : State} (h : BlockMove s t) (hs : Inv s) : PhaseFrame t := by
  cases h with
  | idle => exact hs.phase
  | stall => exact hs.phase
  | @first p hp hscan =>
    by_cases hlt : p < s.opr.len
    · exact (phaseFrame_skip (if_pos hlt)).2 ⟨hs.first hp, (scan_ok hscan).matchAt hlt⟩
    · exact phaseFrame_finish (if_neg hlt)
  | skip hp hstart =>
    obtain ⟨hmax, hmatch⟩ := hs.skip hp
    obtain ⟨hge, hle, -, hend⟩ := unitStart_ok hmatch.add_three_le hstart
    exact (phaseFrame_next rfl).2 ⟨hmax, hge, hle, hend⟩
  | @next p hp hscan =>
    have hunit := hs.unitFrame_next hp hscan
    by_cases hsmall : p - s.work.cur ≤ s.opr.maxsz
    · refine (phaseFrame_single (if_pos hsmall)).2 ⟨hunit _, hsmall, fun hv => ?_⟩
      exact absurd (hv.symm.trans (hs.pk_valid_eq_false hp nofun nofun nofun)) (by decide)
    · exact (phaseFrame_fragInit (if_neg hsmall)).2 ⟨hunit _, Nat.lt_of_not_le hsmall⟩
  | singlePut hp hv =>
    obtain ⟨hunit, hsmall, -⟩ := hs.single hp
    exact (phaseFrame_single (s := present _ _ _ _ s) hp).2
      ⟨hunit.of_eq rfl rfl rfl, hsmall, fun _ => present_view _ _ _ _ _⟩
  | singleTake hp =>
    exact (phaseFrame_adv rfl).2 ((hs.single hp).1.of_eq rfl rfl rfl)
  | shortUnit hp hshort =>
    have := (hs.fragInit_long hp).1
    omega
  | fragInit hp hlong h0 h1 =>
    refine (phaseFrame_fragLoop rfl).2 ⟨hs.fragFrame_fragInit hp h0 h1, endBit_fu2First _, ?_,
      fun hv => ?_⟩
    · exact (startBit_fu2First _).trans (decide_eq_true rfl).symm
    · exact absurd (hv.symm.trans (hs.pk_valid_eq_false hp nofun nofun nofun)) (by decide)
  | fragPut hp hv hmore =>
    obtain ⟨hfrag, hend, hstart, -⟩ := hs.fragLoop hp
    exact (phaseFrame_fragLoop (s := present _ _ _ _ s) hp).2
      ⟨hfrag.of_eq rfl rfl rfl rfl, hend, hstart, fun _ => ⟨hmore, present_view _ _ _ _ _⟩⟩
  | fragTake hp hv ha =>
    obtain ⟨hfrag, hend, -, hport⟩ := hs.fragLoop hp
    have hmore := (hport hv).1
    have hfrom := hfrag.from2
    have htail := hfrag.tail
    have hflen := hfrag.flen
    have hmax := hfrag.base.maxsz
    refine (phaseFrame_fragLoop (s := fragAdvance (answered _ _ s)) hp).2
      ⟨hfrag.of_moved rfl rfl rfl rfl ?_ ?_ ?_ (fu2ClearStart_type _),
        (endBit_fu2ClearStart _).trans hend, ?_, nofun⟩
    · change s.work.cur + 2 ≤ s.work.off + s.work.flen
      omega
    · change s.work.off + s.work.flen + (s.work.rem - s.work.flen) = s.work.r1
      omega
    · change 1 ≤ s.work.rem - s.work.flen
      omega
    · refine (startBit_fu2ClearStart _).trans (decide_eq_false ?_).symm
      change ¬ s.work.off + s.work.flen = s.work.cur + 2
      omega
  | fragLeave hp hv hlast =>
    obtain ⟨hfrag, hend, hstart, -⟩ := hs.fragLoop hp
    have hbig := hfrag.big
    have htail := hfrag.tail
    have hflen := hfrag.flen
    have hfrom := hfrag.from2
    have hulen := hfrag.base.ulen
    have hne : s.work.off ≠ s.work.cur + 2 := by omega
    refine (phaseFrame_fragLast rfl).2 ⟨hfrag.of_eq rfl rfl rfl rfl, hlast,
      hstart.trans (decide_eq_false hne), ?_, hend.trans hv.symm, fun hv' => ?_⟩
    · change s.work.cur + 2 < s.work.off
      omega
    · exact absurd hv (by rw [show s.pk.valid = true from hv']; decide)
  | lastPut hp hv =>
    obtain ⟨hfrag, hlast, hstart, hoff, -, -⟩ := hs.fragLast hp
    exact (phaseFrame_fragLast (s := presentLast s) hp).2
      ⟨hfrag.of_moved rfl rfl rfl rfl hfrag.from2 hfrag.tail hfrag.left (fu2SetEnd_type _), hlast,
        (startBit_fu2SetEnd _).trans hstart, hoff, endBit_fu2SetEnd _,
        fun _ => present_view _ _ _ _ _⟩
  | lastTake hp =>
    exact (phaseFrame_adv rfl).2 ((hs.fragLast hp).1.base.of_eq rfl rfl rfl)
  | adv hp =>
    have hunit := hs.adv hp
    by_cases hlt : s.work.r1 < s.opr.len
    · refine (phaseFrame_skip (if_pos hlt)).2 ⟨hunit.maxsz, ?_⟩
      exact hunit.hit.resolve_left (Nat.ne_of_lt hlt)
    · exact phaseFrame_finish (if_neg hlt)
  | finish => exact phaseFrame_idle rfl

/-! ### The flags and the port under a move -/

/-- Only FINISH writes STATUS, and only FINISH leads to IDLE (R28, R120). -/
theorem BlockMove.status_cases {s t : State} (h : BlockMove s t) :
    (s.ph = .finish ∧ t = complete s) ∨
    (t.status = s.status ∧ (t.ph = .idle ↔ s.ph = .idle)) := by
  cases h with
  | finish hp => exact .inl ⟨hp, rfl⟩
  | idle => exact .inr ⟨rfl, Iff.rfl⟩
  | stall => exact .inr ⟨rfl, Iff.rfl⟩
  | @first p hp => refine .inr ⟨rfl, ?_⟩; by_cases hlt : p < s.opr.len <;> simp [hp, hlt]
  | @next p hp =>
    refine .inr ⟨rfl, ?_⟩
    by_cases hsmall : p - s.work.cur ≤ s.opr.maxsz <;> simp [hp, hsmall]
  | adv hp => refine .inr ⟨rfl, ?_⟩; by_cases hlt : s.work.r1 < s.opr.len <;> simp [hp, hlt]
  | singlePut hp | fragPut hp | lastPut hp | fragTake hp => exact .inr ⟨rfl, Iff.rfl⟩
  | skip hp | singleTake hp | shortUnit hp | fragInit hp | fragLeave hp | lastTake hp =>
    refine .inr ⟨rfl, ?_⟩
    simp [hp]

/-- After a move a packet is on the port only in an emitting phase (R26). -/
theorem BlockMove.port {s t : State} (h : BlockMove s t) (hs : Inv s) (hv : t.pk.valid = true) :
    t.ph = .single ∨ t.ph = .fragLoop ∨ t.ph = .fragLast := by
  cases h with
  | idle hp => exact hs.port hv
  | stall hp => exact hp
  | singlePut hp => exact .inl hp
  | fragPut hp => exact .inr (.inl hp)
  | lastPut hp => exact .inr (.inr hp)
  | singleTake | fragTake | lastTake => cases hv
  | fragLeave _ hno => exact absurd (hno.symm.trans hv) (by decide)
  | first hp | skip hp | next hp | shortUnit hp | fragInit hp | adv hp | finish hp =>
    exact absurd (hv.symm.trans (hs.pk_valid_eq_false hp nofun nofun nofun)) (by decide)

/-- A move of a state that meets the invariant raises nothing but SINK (R115, R122). -/
theorem BlockMove.errors {s t : State} (h : BlockMove s t) (hs : Inv s) :
    t.decErr = s.decErr ∧ t.paramErr = s.paramErr := by
  cases h with
  | shortUnit hp hshort =>
    have := (hs.fragInit_long hp).1
    omega
  | singleTake | fragTake | lastTake =>
    exact ⟨answered_decErr s _ _, answered_paramErr s _ _⟩
  | _ => exact ⟨rfl, rfl⟩

/-- A move keeps the invariant. -/
theorem BlockMove.inv {s t : State} (h : BlockMove s t) (hs : Inv s) : Inv t := by
  obtain ⟨hdec, hpar⟩ := h.errors hs
  have hframe := h.frame
  have hmem : Memory.wf t.widths.maxLen t.buf = true := by
    rw [hframe.widths, hframe.buf]; exact hs.mem
  have hfits := hs.fits.of_work hframe (h.workFit hs)
  have hphase := h.phaseFrame hs
  have hport := h.port hs
  rcases h.status_cases with ⟨hp, rfl⟩ | ⟨hst, hidle⟩
  · exact ⟨hmem, hfits, by simp, by simp, hport, hdec.trans hs.dec,
      fun g => ⟨(hs.param g).1, .inl rfl⟩, hphase⟩
  · have hbusy : t.busy = s.busy := busy_of_status hst
    have hdone : t.done = s.done := done_of_status hst
    refine ⟨hmem, hfits, ?_, by rw [hbusy, hdone]; exact hs.excl, hport, hdec.trans hs.dec,
      fun g => ?_, hphase⟩
    · rw [hbusy, hs.busy, decide_eq_decide, not_iff_not, hidle]
    · rw [hpar] at g
      obtain ⟨hsink, hp⟩ := hs.param g
      rcases hp with hp | hp
      · rw [h.eq_of_idle hp]
        exact ⟨hsink, .inl hp⟩
      · rw [h.eq_of_finish hp]
        exact ⟨hsink, .inl rfl⟩

/-- Settles O36: a move, a command, a store and a reset each keep the invariant. -/
theorem everyStepKeepsTheInvariant : Obligations.EveryStepKeepsTheInvariant := by
  intro s t hs h
  rcases step_next_cases h with ⟨rest, hmove⟩ | ⟨i, rest, hb, heff⟩ |
    ⟨base, a, bytes, rest, hbase, hb, hfit, rfl⟩ | ⟨rest, -, rfl⟩
  · exact hmove.inv (hs.withHost rest)
  · exact heff.inv (hs.withHost rest) hb
  · have hwf : Memory.wf s.widths.maxLen base = true := by
      rcases hbase with rfl | rfl
      · exact hs.mem
      · exact memory_nil_wf
    exact (hs.withHost rest).store hb (memWriteBytes_wf bytes base a hwf hfit)
  · exact inv_resetBlock hs.mem

end Sys2Proof.Machine

/-! PROOF. What follows from the invariant: no read outside the buffer, progress over a bound
buffer, and where the presented packet lies. -/

namespace Sys2Proof.Machine

/-! ### Reads and progress (R38, R137) -/

/-- The only way the block's own step stops: it needs a byte of the buffer, inside LEN, that the
host never bound (U9). -/
def StepUnbound (s : State) : Prop :=
  ∃ a, a < s.opr.len ∧ memRead? s.buf a = none ∧ blockStep s = .fault (.unboundByte a)

theorem StepUnbound.not_boundTo {s : State} (h : StepUnbound s) : ¬ s.buf.boundTo s.opr.len := by
  intro hb
  obtain ⟨a, hlt, hnone, -⟩ := h
  simpa [hnone] using hb a hlt

/-- A computation over BUF that stops at an unbound byte stops the step there. -/
theorem stepUnbound_of_withValue {α : Type} {s : State} {lo : Nat} {x : Except Fault α}
    {k : α → Host.Outcome State Fault Refusal} (h : StopsUnbound s.buf s.opr.len lo x)
    (hstep : blockStep s = withValue x k) : StepUnbound s := by
  obtain ⟨a, -, hlt, hnone, hx⟩ := h
  exact ⟨a, hlt, hnone, by rw [hstep, hx, withValue_error]⟩

/-- An emitting phase moves on, with or without a packet on the port and an answer to come. -/
theorem exists_move_of_emitting {s : State}
    (hp : s.ph = .single ∨ s.ph = .fragLoop ∨ s.ph = .fragLast)
    (put : s.pk.valid = false → ∃ t, BlockMove s t)
    (take : ∀ a rest, s.pk.valid = true → s.sink.answers = a :: rest → ∃ t, BlockMove s t) :
    ∃ t, BlockMove s t := by
  cases hv : s.pk.valid with
  | false => exact put hv
  | true =>
    cases ha : s.sink.answers with
    | nil => exact ⟨_, .stall hp hv ha⟩
    | cons a rest => exact take a rest hv ha

/-- In a state that meets the invariant the block's own step answers a next state, or needs an
unbound byte. -/
theorem Inv.blockStep_cases {s : State} (h : Inv s) : (∃ t, BlockMove s t) ∨ StepUnbound s := by
  cases hp : s.ph with
  | idle => exact .inl ⟨_, .idle hp⟩
  | first =>
    rcases scan_cases s.buf s.opr.len 0 with ⟨p, hscan, -⟩ | hstop
    · exact .inl ⟨_, .first hp hscan⟩
    · exact .inr (stepUnbound_of_withValue hstop (blockStep_first hp))
  | skip =>
    rcases unitStart_cases s.buf s.opr.len s.work.r (h.skip hp).2.add_three_le with
      ⟨c, hstart, -⟩ | hstop
    · exact .inl ⟨_, .skip hp hstart⟩
    · exact .inr (stepUnbound_of_withValue hstop (blockStep_skip hp))
  | next =>
    rcases scan_cases s.buf s.opr.len s.work.cur with ⟨p, hscan, -⟩ | hstop
    · exact .inl ⟨_, .next hp hscan⟩
    · exact .inr (stepUnbound_of_withValue hstop (blockStep_next hp))
  | single =>
    exact .inl (exists_move_of_emitting (.inl hp) (fun hv => ⟨_, .singlePut hp hv⟩)
      fun a rest hv ha => ⟨_, .singleTake hp hv ha⟩)
  | fragInit =>
    obtain ⟨hlong, hin⟩ := h.fragInit_long hp
    have hstep := (blockStep_fragInit hp).trans (phaseFragInit_long (by omega))
    rcases memReadByte_cases s.buf s.opr.len s.work.cur with
      ⟨b0, -, -, h0⟩ | ⟨hlt, hnone, h0⟩ | ⟨hge, -⟩
    · rcases memReadByte_cases s.buf s.opr.len (s.work.cur + 1) with
        ⟨b1, -, -, h1⟩ | ⟨hlt, hnone, h1⟩ | ⟨hge, -⟩
      · exact .inl ⟨_, .fragInit hp (by omega) h0 h1⟩
      · exact .inr ⟨_, hlt, hnone, by rw [hstep, h0, withValue_ok, h1, withValue_error]⟩
      · omega
    · exact .inr ⟨_, hlt, hnone, by rw [hstep, h0, withValue_error]⟩
    · omega
  | fragLoop =>
    refine .inl (exists_move_of_emitting (.inr (.inl hp)) (fun hv => ?_)
      fun a rest hv ha => ⟨_, .fragTake hp hv ha⟩)
    rcases Nat.lt_or_ge s.work.flen s.work.rem with hmore | hlast
    · exact ⟨_, .fragPut hp hv hmore⟩
    · exact ⟨_, .fragLeave hp hv hlast⟩
  | fragLast =>
    exact .inl (exists_move_of_emitting (.inr (.inr hp)) (fun hv => ⟨_, .lastPut hp hv⟩)
      fun a rest hv ha => ⟨_, .lastTake hp hv ha⟩)
  | adv => exact .inl ⟨_, .adv hp⟩
  | finish => exact .inl ⟨_, .finish hp⟩

/-- Over a bound buffer the block's own step answers a next state. -/
theorem Inv.blockMove_of_boundTo {s : State} (h : Inv s) (hb : s.buf.boundTo s.opr.len) :
    ∃ t, BlockMove s t :=
  h.blockStep_cases.resolve_right fun g => g.not_boundTo hb

/-- A command stops only at an unbound byte of the buffer. -/
theorem exec_command_ne_boundsFault {i : Instr} (hi : isCommand i = true) {s : State}
    (hb : s.busy = false) (a n len : Nat) : exec i s ≠ .fault (.boundsFault a n len) := by
  cases i with
  | scan pos l =>
    rw [exec_scan_idle hb]
    rcases scan_cases s.buf (s.widths.pos l) (s.widths.pos pos) with
      ⟨p, hscan, -⟩ | ⟨b, -, -, -, hscan⟩ <;> rw [hscan] <;> intro h <;> cases h
  | sclen pos l =>
    rw [exec_sclen_idle hb]
    rcases skipLen_cases s.buf (s.widths.pos l) (s.widths.pos pos) with
      ⟨p, hskip, -⟩ | ⟨b, -, -, -, hskip⟩ <;> rw [hskip] <;> intro h <;> cases h
  | hdec b0 b1 => rw [exec_hdec_idle hb]; intro h; cases h
  | henc f t l d => rw [exec_henc_idle hb]; intro h; cases h
  | iskey t => rw [exec_iskey_idle hb]; intro h; cases h
  | pkt l maxsz ts ctx => rw [exec_pkt_idle hb]; intro h; cases h
  | reserved6 => rw [exec_reserved6, onCommandPort_idle hb]; intro h; cases h
  | reserved7 => rw [exec_reserved7, onCommandPort_idle hb]; intro h; cases h
  | start3 | start4 | unitHdr | fuHdr => cases hi

theorem hostStore_ne_boundsFault (base : Memory) (x : Nat) (bytes : List Byte) (s : State)
    (a n len : Nat) : hostStore base x bytes s ≠ .fault (.boundsFault a n len) := by
  rcases hostStore_cases base x bytes s with ⟨-, h⟩ | ⟨-, -, h⟩ | ⟨-, -, h⟩ <;> rw [h] <;>
    intro g <;> cases g

/-- No instruction executed by an idle block stops in a bounds fault. -/
theorem exec_ne_boundsFault {i : Instr} {s : State} (h : isCommand i = true → s.busy = false)
    (a n len : Nat) : exec i s ≠ .fault (.boundsFault a n len) := by
  cases hi : isCommand i with
  | true => exact exec_command_ne_boundsFault hi (h hi) a n len
  | false =>
    obtain ⟨bytes, hbytes⟩ := encode_of_not_isCommand hi
    rw [exec_of_encode_stream hbytes]
    exact hostStore_ne_boundsFault _ _ _ s a n len

/-- Settles O39: the block's own step stops at an unbound byte only, and so does a command. -/
theorem noReadOutsideTheBuffer : Obligations.NoReadOutsideTheBuffer := by
  intro s hs a n len
  rcases step_cases s with ⟨rest, g⟩ | ⟨c, rest, hidle, g⟩ | ⟨i, rest, hi, g⟩ |
    ⟨base, x, bytes, rest, -, g⟩ | ⟨rest, -, g⟩ <;> rw [g]
  · rcases (hs.withHost rest).blockStep_cases with ⟨t, hmove⟩ | ⟨b, -, -, hstop⟩
    · rw [hmove.blockStep_eq]; intro h; cases h
    · rw [hstop]; intro h; cases h
  · exact exec_ne_boundsFault (s := s.withHost rest) (fun _ => hidle) a n len
  · exact exec_ne_boundsFault (fun hc => absurd (hi.symm.trans hc) (by decide)) a n len
  · exact hostStore_ne_boundsFault _ _ _ _ a n len
  · intro h; cases h

/-- Settles O40: the block's own step answers a next state. -/
theorem busyBlockAlwaysSteps : Obligations.BusyBlockAlwaysSteps := by
  intro s b hs _ hown hbound
  have hb := hown.eq_withHost
  have hinv : Inv b := by rw [hb]; exact hs.withHost _
  obtain ⟨t, hmove⟩ := hinv.blockMove_of_boundTo (by rw [hb]; exact hbound)
  exact ⟨t, step_of_move hown hmove⟩

/-! ### The packet on the port (R113, R123, R124, R128, R129) -/

/-- What the sink sees of a packet on the port, register by register. -/
theorem PortHolds.fields {s : State} {m : Bool} {fu : Option FuBytes} {off n : Nat}
    (h : PortHolds s m fu off n) :
    s.pk.m = m ∧ s.pk.ts = s.opr.ts ∧ s.pk.off = off ∧ s.pk.len = n ∧ s.pk.ctx = s.opr.ctx := by
  have hview : packetView s.pk = ⟨m, s.opr.ts, fu, off, n, s.opr.ctx⟩ := h
  exact ⟨congrArg Packet.m hview, congrArg Packet.ts hview, congrArg Packet.off hview,
    congrArg Packet.len hview, congrArg Packet.ctx hview⟩

theorem PortHolds.size_eq {s : State} {m : Bool} {fu : Option FuBytes} {off n : Nat}
    (h : PortHolds s m fu off n) :
    (packetView s.pk).size = (if fu.isSome then 3 else 0) + n := by
  rw [Packet.size, show packetView s.pk = _ from h]

/-- The packet on the port of a state that meets the invariant: the whole unit, a full fragment, or
the final one. -/
theorem Inv.port_cases {s : State} (h : Inv s) (hv : s.pk.valid = true) :
    (s.ph = .single ∧ UnitFrame s ∧ s.work.ulen ≤ s.opr.maxsz ∧
      PortHolds s s.work.mark none s.work.cur s.work.ulen) ∨
    (s.ph = .fragLoop ∧ FragFrame s ∧ s.work.flen < s.work.rem ∧
      PortHolds s false (some s.work.fuBytes) s.work.off s.work.flen) ∨
    (s.ph = .fragLast ∧ FragFrame s ∧ s.work.rem ≤ s.work.flen ∧
      PortHolds s s.work.mark (some s.work.fuBytes) s.work.off s.work.rem) := by
  rcases h.port hv with hp | hp | hp
  · obtain ⟨hunit, hsmall, hport⟩ := h.single hp
    exact .inl ⟨hp, hunit, hsmall, hport hv⟩
  · obtain ⟨hfrag, -, -, hport⟩ := h.fragLoop hp
    obtain ⟨hmore, hholds⟩ := hport hv
    exact .inr (.inl ⟨hp, hfrag, hmore, hholds⟩)
  · obtain ⟨hfrag, hlast, -, -, -, hport⟩ := h.fragLast hp
    exact .inr (.inr ⟨hp, hfrag, hlast, hport hv⟩)

/-- Settles O46: the state after the step meets the invariant, which says where its packet lies. -/
theorem presentedPacketFitsAndLiesInItsUnit :
    Obligations.PresentedPacketFitsAndLiesInItsUnit := by
  intro s t hs _ hstep hv
  have ht := everyStepKeepsTheInvariant s t hs hstep
  rcases ht.port_cases hv with ⟨hp, hunit, hsmall, hport⟩ | ⟨hp, hfrag, hmore, hport⟩ |
    ⟨hp, hfrag, hlast, hport⟩
  · obtain ⟨-, -, hoff, hlen, -⟩ := hport.fields
    have hulen := hunit.ulen
    have hstop := hunit.stop
    rw [hport.size_eq, hoff, hlen, hp]
    refine ⟨?_, nofun, le_refl _, by omega, hunit.r1_le⟩
    change 0 + t.work.ulen ≤ t.opr.maxsz
    omega
  · obtain ⟨-, -, hoff, hlen, -⟩ := hport.fields
    have hflen := hfrag.flen
    have hfrom := hfrag.from2
    have htail := hfrag.tail
    have hsize : (packetView t.pk).size = t.opr.maxsz := by
      rw [hport.size_eq]
      change 3 + t.work.flen = t.opr.maxsz
      omega
    rw [hoff, hlen]
    exact ⟨hsize.le, fun _ => hsize, by omega, by omega, hfrag.base.r1_le⟩
  · obtain ⟨-, -, hoff, hlen, -⟩ := hport.fields
    have hflen := hfrag.flen
    have hfrom := hfrag.from2
    have htail := hfrag.tail
    rw [hport.size_eq, hoff, hlen, hp]
    refine ⟨?_, nofun, by omega, by omega, hfrag.base.r1_le⟩
    change 3 + t.work.rem ≤ t.opr.maxsz
    omega

/-- Settles O47: MARK says whether the unit ends at LEN, and a non-final fragment is not marked. -/
theorem markerOnlyOnLastPacketOfLastUnit : Obligations.MarkerOnlyOnLastPacketOfLastUnit := by
  intro s t hs _ hstep hv
  have ht := everyStepKeepsTheInvariant s t hs hstep
  rcases ht.port_cases hv with ⟨hp, hunit, -, hport⟩ | ⟨hp, -, -, hport⟩ | ⟨hp, hfrag, -, hport⟩
  · obtain ⟨hm, hts, -, -, hctx⟩ := hport.fields
    refine ⟨?_, hts, hctx⟩
    rw [hm, hunit.mark, hp]
    simp
  · obtain ⟨hm, hts, -, -, hctx⟩ := hport.fields
    refine ⟨?_, hts, hctx⟩
    rw [hm, hp]
    simp
  · obtain ⟨hm, hts, -, -, hctx⟩ := hport.fields
    refine ⟨?_, hts, hctx⟩
    rw [hm, hfrag.base.mark, hp]
    simp

/-- A unit without a byte ends at the buffer end: no start code begins where the zero run ended
(R113). -/
theorem UnitFrame.cur_eq_len {s : State} (h : UnitFrame s) (h0 : s.work.ulen = 0) :
    s.work.cur = s.opr.len ∧ s.work.mark = true := by
  have hr1 : s.work.r1 = s.work.cur := by
    have hulen := h.ulen
    have hstop := h.stop
    omega
  have hend : s.work.r1 = s.opr.len :=
    h.hit.resolve_right fun hm => h.unit.not_matchAt (by rw [← hr1]; exact hm)
  exact ⟨hr1.symm.trans hend, h.mark.trans (decide_eq_true hend)⟩

/-- Settles O48: the empty unit stands at LEN, and SINGLE presents it. -/
theorem emptyUnitIsOneMarkedEmptyPacket : Obligations.EmptyUnitIsOneMarkedEmptyPacket := by
  intro s b hs hown hp hv h0
  obtain ⟨hcur, hmark⟩ := (hs.single hp).1.cur_eq_len h0
  have hb := hown.eq_withHost
  have hmove : BlockMove b _ := .singlePut (by rw [hb]; exact hp) (by rw [hb]; exact hv)
  refine ⟨hcur, _, step_of_move hown hmove, rfl, ?_, rfl, ?_, ?_⟩ <;> rw [hb]
  · exact hmark
  · exact hcur
  · exact h0

end Sys2Proof.Machine

/-! PROOF. The scanner (spec/40_scanner.md): the laws of a scan result, the zero-byte test, the
three-phase scanner, and the read footprints (spec/20_memory.md R39). -/

namespace Sys2Proof.Machine

/-! ### The laws of a scan result (R76, R84) -/

theorem scan_of_matchAt {m : Memory} {len p : Nat} (h : MatchAt m len p) :
    scan m len p = .ok p := by
  have hin := h.1
  obtain ⟨n, hn⟩ : ∃ n, len - p = n + 1 := ⟨len - p - 1, by omega⟩
  simp only [scan, hn, scanLoop, if_pos hin, match3_of_matchAt h]

/-- Where no three bytes are left the scan answers LEN and reads nothing (R39). -/
theorem scan_of_end {m : Memory} {len p : Nat} (h : len < p + 3) : scan m len p = .ok len := by
  unfold scan
  cases len - p with
  | zero => rfl
  | succ n => exact if_neg (by omega)

/-- The 4-byte form fails at the third byte of a 3-byte start code, so the fourth is not read (R82).
-/
theorem skipLen_of_matchAt {m : Memory} {len p : Nat} (h : MatchAt m len p) :
    skipLen m len p = .ok 3 := by
  obtain ⟨hin, h0, h1, h2⟩ := h
  have r0 : memReadByte m len p = .ok 0#8 := memReadByte_ok (by omega) h0
  have r1 : memReadByte m len (p + 1) = .ok 0#8 := memReadByte_ok (by omega) h1
  have r2 : memReadByte m len (p + 1 + 1) = .ok 1#8 := memReadByte_ok (by omega) h2
  have three : matchBytes m len p start3Bytes = .ok true := by
    simp [matchBytes, start3Bytes, r0, r1, r2]
  have four : matchBytes m len p start4Bytes = .ok false := by
    simp [matchBytes, start4Bytes, r0, r1, r2]
  by_cases hlong : p ≤ len ∧ len - p ≥ 4
  · simp only [skipLen, if_pos hlong, four, three]
  · have hshort : p ≤ len ∧ len - p ≥ 3 := by omega
    simp only [skipLen, if_neg hlong, if_pos hshort, three]

/-- A scan from further on does not answer an earlier position. -/
theorem IsScan.mono {m : Memory} {len pos pos' p p' : Nat} (h : IsScan m len pos p)
    (h' : IsScan m len pos' p') (hle : pos ≤ pos') : p ≤ p' := by
  rcases h' with ⟨hge, hmatch, -⟩ | ⟨rfl, -⟩
  · rcases h with ⟨-, -, hfirst⟩ | ⟨-, hnone⟩
    · by_contra hlt
      exact hfirst p' (hle.trans hge) (Nat.lt_of_not_le hlt) hmatch
    · exact absurd hmatch (hnone p' (hle.trans hge))
  · exact h.le_len

/-- A described position is LEN or has three bytes from it on. -/
theorem IsScan.eq_len_or {m : Memory} {len pos p : Nat} (h : IsScan m len pos p) :
    p = len ∨ p + 3 ≤ len := by
  rcases h with ⟨-, hmatch, -⟩ | ⟨hlen, -⟩
  · exact .inr hmatch.add_three_le
  · exact .inl hlen

/-- A described position is found again from itself. -/
theorem IsScan.scan_self {m : Memory} {len pos p : Nat} (h : IsScan m len pos p) :
    scan m len p = .ok p := by
  rcases h with ⟨-, hmatch, -⟩ | ⟨rfl, -⟩
  · exact scan_of_matchAt hmatch
  · exact scan_of_end (by omega)

/-- Settles O57: each law holds of the described position. -/
theorem scanResultLaws : Obligations.ScanResultLaws := by
  intro m len pos p hscan
  have h := scan_ok hscan
  exact ⟨h.le_len, h.pos_le, h.eq_len_or, h.scan_self,
    fun hlt => ⟨h.matchAt hlt, skipLen_of_matchAt (h.matchAt hlt)⟩,
    fun pos' p' hle hscan' => h.mono (scan_ok hscan') hle, fun p' h' => h'.unique h⟩

/-! ### The zero-byte test (R79) -/

theorem wordOfBytes_toNat (b0 b1 b2 b3 : Byte) :
    (wordOfBytes b0 b1 b2 b3).toNat =
      b0.toNat * 16777216 + b1.toNat * 65536 + b2.toNat * 256 + b3.toNat := by
  have wide : ∀ b : Byte, (b.setWidth 32).toNat = b.toNat := fun b =>
    BitVec.toNat_setWidth_of_le (by decide)
  have h2 : (b2.setWidth 32 <<< 8 ||| b3.setWidth 32).toNat = b2.toNat * 256 + b3.toNat := by
    rw [toNat_shiftLeft_or (by decide) (by rw [wide]; omega), wide, wide]
    omega
  have h1 : (b1.setWidth 32 <<< 16 ||| (b2.setWidth 32 <<< 8 ||| b3.setWidth 32)).toNat =
      b1.toNat * 65536 + (b2.toNat * 256 + b3.toNat) := by
    rw [toNat_shiftLeft_or (by decide) (by rw [h2]; omega), wide, h2]
    omega
  rw [wordOfBytes, BitVec.or_assoc, BitVec.or_assoc,
    toNat_shiftLeft_or (by decide) (by rw [h1]; omega), wide, h1]
  omega

/-- The mask of R79 looks at the top bit of each byte. -/
theorem and_mask_ne_zero_iff (y : BitVec 32) :
    y &&& 0x80808080#32 ≠ 0#32 ↔
      y.getLsbD 7 = true ∨ y.getLsbD 15 = true ∨ y.getLsbD 23 = true ∨ y.getLsbD 31 = true := by
  have hmask : ∀ i : Fin 32, (0x80808080#32).getLsbD i = true →
      i.val = 7 ∨ i.val = 15 ∨ i.val = 23 ∨ i.val = 31 := by decide
  constructor
  · intro hne
    by_contra hnone
    simp only [not_or, Bool.not_eq_true] at hnone
    obtain ⟨h7, h15, h23, h31⟩ := hnone
    refine hne (BitVec.eq_of_getLsbD_eq fun i hi => ?_)
    rw [BitVec.getLsbD_and, BitVec.getLsbD_zero]
    cases hm : (0x80808080#32).getLsbD i with
    | false => rw [Bool.and_false]
    | true =>
      rcases hmask ⟨i, hi⟩ hm with h | h | h | h <;> obtain rfl : i = _ := h <;>
        rw [Bool.and_true] <;> assumption
  · rintro h hzero
    have hbit : ∀ k, (0x80808080#32).getLsbD k = true → y.getLsbD k = false := by
      intro k hk
      have := congrArg (BitVec.getLsbD · k) hzero
      simpa [BitVec.getLsbD_and, hk] using this
    rcases h with h | h | h | h <;> rw [hbit _ (by decide)] at h <;> cases h

theorem getLsbD_eq_decide {w : Nat} (x : BitVec w) (k : Nat) :
    x.getLsbD k = decide (x.toNat / 2 ^ k % 2 = 1) := by
  rw [← BitVec.testBit_toNat, Nat.testBit_eq_decide_div_mod_eq]

/-- The subtraction of R79 in numbers: without a zero byte nothing is borrowed and each byte drops
by one; the lowest zero byte borrows and its top bit comes on. -/
theorem topBit_borrow_iff {n0 n1 n2 n3 x d : Nat} (h0 : n0 < 256) (h1 : n1 < 256) (h2 : n2 < 256)
    (h3 : n3 < 256) (hx : x = n0 * 16777216 + n1 * 65536 + n2 * 256 + n3)
    (hd : d = (4278124287 + x) % 4294967296) :
    (d / 128 % 2 = 1 ∧ n3 / 128 = 0) ∨ (d / 32768 % 2 = 1 ∧ n2 / 128 = 0) ∨
      (d / 8388608 % 2 = 1 ∧ n1 / 128 = 0) ∨ (d / 2147483648 % 2 = 1 ∧ n0 / 128 = 0) ↔
    n0 = 0 ∨ n1 = 0 ∨ n2 = 0 ∨ n3 = 0 := by
  constructor
  · intro h
    by_contra hnone
    simp only [not_or] at hnone
    obtain ⟨z0, z1, z2, z3⟩ := hnone
    have hdrop : d = (n0 - 1) * 16777216 + (n1 - 1) * 65536 + (n2 - 1) * 256 + (n3 - 1) := by omega
    clear hx hd
    rcases h with h | h | h | h <;> omega
  · intro h
    by_cases z3 : n3 = 0
    · exact .inl ⟨by omega, by omega⟩
    by_cases z2 : n2 = 0
    · exact .inr (.inl ⟨by omega, by omega⟩)
    by_cases z1 : n1 = 0
    · exact .inr (.inr (.inl ⟨by omega, by omega⟩))
    · have z0 : n0 = 0 := by omega
      exact .inr (.inr (.inr ⟨by omega, by omega⟩))

/-- The top bits of a word's bytes. -/
theorem topBits_of_bytes {n0 n1 n2 n3 x : Nat} (h0 : n0 < 256) (h1 : n1 < 256) (h2 : n2 < 256)
    (h3 : n3 < 256) (hx : x = n0 * 16777216 + n1 * 65536 + n2 * 256 + n3) :
    x / 128 % 2 = n3 / 128 ∧ x / 32768 % 2 = n2 / 128 ∧ x / 8388608 % 2 = n1 / 128 ∧
      x / 2147483648 % 2 = n0 / 128 := by
  refine ⟨?_, ?_, ?_, ?_⟩ <;> omega

/-- A bit of R79's word: on in the difference and off in x. -/
theorem getLsbD_sub_and_not (x c : BitVec 32) {k : Nat} (hk : k < 32) :
    ((x - c) &&& ~~~x).getLsbD k = true ↔
      (x - c).toNat / 2 ^ k % 2 = 1 ∧ x.toNat / 2 ^ k % 2 = 0 := by
  rw [BitVec.getLsbD_and, BitVec.getLsbD_not, getLsbD_eq_decide, getLsbD_eq_decide]
  simp [hk]

/-- Settles O58: the four top bits of the word of R79, by the borrow of its subtraction. -/
theorem haszeroIsExact : Obligations.HaszeroIsExact := by
  intro b0 b1 b2 b3
  have hzero : ∀ b : Byte, b = 0 ↔ b.toNat = 0 := fun b => by rw [← BitVec.toNat_inj]; rfl
  have hx := wordOfBytes_toNat b0 b1 b2 b3
  have hd : (wordOfBytes b0 b1 b2 b3 - 0x01010101#32).toNat =
      (4278124287 + (wordOfBytes b0 b1 b2 b3).toNat) % 4294967296 := BitVec.toNat_sub _ _
  have hiff := topBit_borrow_iff b0.isLt b1.isLt b2.isLt b3.isLt hx hd
  obtain ⟨t3, t2, t1, t0⟩ := topBits_of_bytes b0.isLt b1.isLt b2.isLt b3.isLt hx
  rw [← t0, ← t1, ← t2, ← t3] at hiff
  rw [haszero, bne_iff_ne, and_mask_ne_zero_iff, hzero b0, hzero b1, hzero b2, hzero b3, ← hiff,
    getLsbD_sub_and_not _ _ (by decide), getLsbD_sub_and_not _ _ (by decide),
    getLsbD_sub_and_not _ _ (by decide), getLsbD_sub_and_not _ _ (by decide)]
  rfl

/-! ### The three-phase scanner (R78, R81) -/

/-- No start code begins from p on before q. -/
def NoMatch (m : Memory) (len p q : Nat) : Prop := ∀ r, p ≤ r → r < q → ¬ MatchAt m len r

/-- q is the first position from p on where a start code begins. -/
def FirstMatch (m : Memory) (len p q : Nat) : Prop := p ≤ q ∧ MatchAt m len q ∧ NoMatch m len p q

section Fast

variable {m : Memory} {len : Nat}

theorem NoMatch.self (p : Nat) : NoMatch m len p p := fun _ h1 h2 => by omega

theorem NoMatch.trans {p q r : Nat} (h1 : NoMatch m len p q) (h2 : NoMatch m len q r) :
    NoMatch m len p r := by
  intro x hp hr
  rcases Nat.lt_or_ge x q with hlt | hge
  · exact h1 x hp hlt
  · exact h2 x hge hr

theorem NoMatch.single {p : Nat} (h : ¬ MatchAt m len p) : NoMatch m len p (p + 1) := by
  intro x hp hlt
  obtain rfl : x = p := by omega
  exact h

theorem FirstMatch.of_noMatch {p q r : Nat} (hpq : p ≤ q) (h : NoMatch m len p q)
    (hr : FirstMatch m len q r) : FirstMatch m len p r :=
  ⟨hpq.trans hr.1, hr.2.1, h.trans hr.2.2⟩

theorem FirstMatch.isScan {p q : Nat} (h : FirstMatch m len p q) : IsScan m len p q := .inl h

/-- Match3 over a bound buffer answers. -/
theorem match3_of_boundTo (hb : m.boundTo len) (p : Nat) :
    (match3 m len p = .ok true ∧ MatchAt m len p) ∨
    (match3 m len p = .ok false ∧ ¬ MatchAt m len p) := by
  rcases match3_cases m len p with h | h | ⟨-, h⟩
  · exact .inl h
  · exact .inr h
  · exact absurd hb h.not_boundTo

/-- Phases 1 and 3: the first start code, or a position before which none begins and at which the
phase ends. -/
theorem fastBytes_of_boundTo (hb : m.boundTo len) (more : Nat → Bool) (n p : Nat) :
    (∃ q, fastBytes m len more n p = .ok (.inl q) ∧ FirstMatch m len p q) ∨
    (∃ q, fastBytes m len more n p = .ok (.inr q) ∧ p ≤ q ∧ NoMatch m len p q ∧
      (more q = false ∨ p + n ≤ q)) := by
  induction n generalizing p with
  | zero => exact .inr ⟨p, rfl, le_refl p, .self p, .inr (le_refl p)⟩
  | succ n ih =>
    cases hmore : more p with
    | false => exact .inr ⟨p, by simp [fastBytes, hmore], le_refl p, .self p, .inl hmore⟩
    | true =>
      rcases match3_of_boundTo hb p with ⟨h3, hm⟩ | ⟨h3, hm⟩
      · exact .inl ⟨p, by simp [fastBytes, hmore, h3], le_refl p, hm, .self p⟩
      · have hstep : fastBytes m len more (n + 1) p = fastBytes m len more n (p + 1) := by
          simp [fastBytes, hmore, h3]
        rw [hstep]
        rcases ih (p + 1) with ⟨q, hq, hfirst⟩ | ⟨q, hq, hle, hno, hend⟩
        · exact .inl ⟨q, hq, hfirst.of_noMatch (Nat.le_succ p) (.single hm)⟩
        · exact .inr ⟨q, hq, by omega, (NoMatch.single hm).trans hno, hend.imp_right (by omega)⟩

/-- The probe of the sub-positions of a word. -/
theorem fastProbe_of_boundTo (hb : m.boundTo len) (n p : Nat) :
    (∃ q, fastProbe m len n p = .ok (some q) ∧ FirstMatch m len p q) ∨
    (fastProbe m len n p = .ok none ∧ NoMatch m len p (p + n)) := by
  induction n generalizing p with
  | zero => exact .inr ⟨rfl, .self p⟩
  | succ n ih =>
    rcases match3_of_boundTo hb p with ⟨h3, hm⟩ | ⟨h3, hm⟩
    · exact .inl ⟨p, by simp [fastProbe, h3], le_refl p, hm, .self p⟩
    · have hstep : fastProbe m len (n + 1) p = fastProbe m len n (p + 1) := by
        simp [fastProbe, h3]
      rw [hstep]
      rcases ih (p + 1) with ⟨q, hq, hfirst⟩ | ⟨hq, hno⟩
      · exact .inl ⟨q, hq, hfirst.of_noMatch (Nat.le_succ p) (.single hm)⟩
      · refine .inr ⟨hq, (NoMatch.single hm).trans ?_⟩
        rwa [Nat.add_right_comm, Nat.add_assoc] at hno

/-- A word read inside a bound buffer gives its four bytes (R43). -/
theorem memReadWord_of_boundTo (hb : m.boundTo len) {p : Nat} (h : p + 4 ≤ len) :
    ∃ b0 b1 b2 b3, memRead? m p = some b0 ∧ memRead? m (p + 1) = some b1 ∧
      memRead? m (p + 2) = some b2 ∧ memRead? m (p + 3) = some b3 ∧
      memReadWord m len p = .ok (wordOfBytes b0 b1 b2 b3) := by
  obtain ⟨b0, h0, r0⟩ := memReadByte_of_boundTo hb (show p < len by omega)
  obtain ⟨b1, h1, r1⟩ := memReadByte_of_boundTo hb (show p + 1 < len by omega)
  obtain ⟨b2, h2, r2⟩ := memReadByte_of_boundTo hb (show p + 2 < len by omega)
  obtain ⟨b3, h3, r3⟩ := memReadByte_of_boundTo hb (show p + 3 < len by omega)
  refine ⟨b0, b1, b2, b3, h0, h1, h2, h3, ?_⟩
  rw [memReadWord, if_pos h, r0, r1, r2, r3]
  rfl

/-- In a word without a zero byte no start code begins: each begins with one (R79). -/
theorem noMatch_of_haszero_eq_false {p : Nat} {b0 b1 b2 b3 : Byte} (h0 : memRead? m p = some b0)
    (h1 : memRead? m (p + 1) = some b1) (h2 : memRead? m (p + 2) = some b2)
    (h3 : memRead? m (p + 3) = some b3) (hz : haszero (wordOfBytes b0 b1 b2 b3) = false) :
    NoMatch m len p (p + 4) := by
  intro r hge hlt hm
  have hzero : memRead? m r = some 0#8 := hm.2.1
  have hnone : ¬ (b0 = 0 ∨ b1 = 0 ∨ b2 = 0 ∨ b3 = 0) := by
    rw [← haszeroIsExact, hz]
    decide
  obtain rfl | rfl | rfl | rfl : r = p ∨ r = p + 1 ∨ r = p + 2 ∨ r = p + 3 := by omega
  · exact hnone (.inl (Option.some.inj (h0.symm.trans hzero)))
  · exact hnone (.inr (.inl (Option.some.inj (h1.symm.trans hzero))))
  · exact hnone (.inr (.inr (.inl (Option.some.inj (h2.symm.trans hzero)))))
  · exact hnone (.inr (.inr (.inr (Option.some.inj (h3.symm.trans hzero)))))

/-- Phase 2: the first start code, or a position before which none begins. -/
theorem fastWords_of_boundTo (hb : m.boundTo len) {last : Nat} (hlast : last + 1 ≤ len)
    (n p : Nat) :
    (∃ q, fastWords m len last n p = .ok (.inl q) ∧ FirstMatch m len p q) ∨
    (∃ q, fastWords m len last n p = .ok (.inr q) ∧ p ≤ q ∧ NoMatch m len p q) := by
  induction n generalizing p with
  | zero => exact .inr ⟨p, rfl, le_refl p, .self p⟩
  | succ n ih =>
    by_cases hin : p + 3 ≤ last
    · obtain ⟨b0, b1, b2, b3, h0, h1, h2, h3, hw⟩ :=
        memReadWord_of_boundTo hb (show p + 4 ≤ len by omega)
      have go : ∀ hno : NoMatch m len p (p + 4),
          fastWords m len last (n + 1) p = fastWords m len last n (p + Config.word) →
          (∃ q, fastWords m len last (n + 1) p = .ok (.inl q) ∧ FirstMatch m len p q) ∨
          (∃ q, fastWords m len last (n + 1) p = .ok (.inr q) ∧ p ≤ q ∧ NoMatch m len p q) := by
        intro hno hstep
        rw [hstep]
        rcases ih (p + 4) with ⟨q, hq, hfirst⟩ | ⟨q, hq, hle, hno'⟩
        · exact .inl ⟨q, hq, hfirst.of_noMatch (by omega) hno⟩
        · exact .inr ⟨q, hq, by omega, hno.trans hno'⟩
      cases hz : haszero (wordOfBytes b0 b1 b2 b3) with
      | false =>
        exact go (noMatch_of_haszero_eq_false h0 h1 h2 h3 hz)
          (by simp [fastWords, hin, hw, hz])
      | true =>
        rcases fastProbe_of_boundTo hb 4 p with ⟨q, hq, hfirst⟩ | ⟨hq, hno⟩
        · exact .inl ⟨q, by simp [fastWords, hin, hw, hz, hq], hfirst⟩
        · exact go hno (by simp [fastWords, hin, hw, hz, hq])
    · exact .inr ⟨p, by simp [fastWords, hin], le_refl p, .self p⟩

/-- From LEN - 2 on no start code begins. -/
theorem isScan_len_of_noMatch {p q : Nat} (hno : NoMatch m len p q) (hq : len < q + 3) :
    IsScan m len p len := by
  refine .inr ⟨rfl, fun r hr hm => ?_⟩
  have hin := hm.add_three_le
  exact hno r hr (by omega) hm

/-- The three phases, one after the other, find what Scan is said to be (R78, R81). -/
theorem scanFast_of_boundTo (hb : m.boundTo len) (a0 pos : Nat) :
    ∃ p, scanFast m len a0 pos = .ok p ∧ IsScan m len pos p := by
  by_cases hend : len < 3 ∨ pos > len - 3
  · exact ⟨len, if_pos hend, isScan_len_of_noMatch (.self pos) (by omega)⟩
  rcases fastBytes_of_boundTo hb
    (fun p => p ≤ len - 3 && (a0 + p) % Config.word != 0) (len - pos) pos with
    ⟨q, h1, hfirst⟩ | ⟨p1, h1, hle1, hno1, -⟩
  · exact ⟨q, by simp only [scanFast, if_neg hend, h1], hfirst.isScan⟩
  rcases fastWords_of_boundTo hb (last := len - 3) (by omega) (len - p1) p1 with
    ⟨q, h2, hfirst⟩ | ⟨p2, h2, hle2, hno2⟩
  · exact ⟨q, by simp only [scanFast, if_neg hend, h1, h2], (hfirst.of_noMatch hle1 hno1).isScan⟩
  rcases fastBytes_of_boundTo hb (fun p => p ≤ len - 3) (len - p2) p2 with
    ⟨q, h3, hfirst⟩ | ⟨p3, h3, -, hno3, hstop⟩
  · exact ⟨q, by simp only [scanFast, if_neg hend, h1, h2, h3],
      (hfirst.of_noMatch (hle1.trans hle2) (hno1.trans hno2)).isScan⟩
  · refine ⟨len, by simp only [scanFast, if_neg hend, h1, h2, h3],
      isScan_len_of_noMatch ((hno1.trans hno2).trans hno3) ?_⟩
    rcases hstop with hstop | hstop
    · have : ¬ p3 ≤ len - 3 := of_decide_eq_false hstop
      omega
    · omega

end Fast

/-- Settles O59: both scanners answer what Scan is said to be, which is unique. -/
theorem scanFastEqualsScan : Obligations.ScanFastEqualsScan := by
  intro m len a0 pos hb
  obtain ⟨p, hfast, hp⟩ := scanFast_of_boundTo hb a0 pos
  obtain ⟨q, hslow, hq⟩ := scan_of_boundTo hb pos
  rw [hfast, hslow, hp.unique hq]

/-! ### The read footprints (R39) -/

section Footprint

variable {m m' : Memory} {len : Nat}

/-- The bound of a read comes before the buffer, so only offsets below LEN count. -/
theorem memReadByte_congr {a : Nat} (h : a < len → memRead? m a = memRead? m' a) :
    memReadByte m len a = memReadByte m' len a := by
  unfold memReadByte
  by_cases hin : a + 1 ≤ len
  · rw [if_pos hin, if_pos hin, h hin]
  · rw [if_neg hin, if_neg hin]

theorem matchBytes_congr (vs : List Byte) (p : Nat)
    (h : ∀ k, k < vs.length → memReadByte m len (p + k) = memReadByte m' len (p + k)) :
    matchBytes m len p vs = matchBytes m' len p vs := by
  induction vs generalizing p with
  | nil => rfl
  | cons v vs ih =>
    have hhead := h 0 (by simp)
    have htail := ih (p + 1) fun k hk => by
      have := h (k + 1) (by simpa using hk)
      rwa [← Nat.add_assoc, Nat.add_right_comm] at this
    rw [Nat.add_zero] at hhead
    rw [matchBytes, matchBytes, hhead, htail]

theorem match3_congr {p : Nat}
    (h : ∀ a, p ≤ a → memReadByte m len a = memReadByte m' len a) :
    match3 m len p = match3 m' len p := by
  unfold match3
  rw [matchBytes_congr start3Bytes p fun k _ => h (p + k) (Nat.le_add_right p k)]

theorem scanLoop_congr (n p : Nat)
    (h : ∀ a, p ≤ a → memReadByte m len a = memReadByte m' len a) :
    scanLoop m len n p = scanLoop m' len n p := by
  induction n generalizing p with
  | zero => rfl
  | succ n ih =>
    rw [scanLoop, scanLoop, match3_congr h, ih (p + 1) fun a ha => h a (by omega)]

theorem scan_congr {pos : Nat}
    (h : ∀ a, pos ≤ a → memReadByte m len a = memReadByte m' len a) :
    scan m len pos = scan m' len pos :=
  scanLoop_congr _ pos h

theorem skipLen_congr {pos : Nat}
    (h : ∀ k, k < 4 → memReadByte m len (pos + k) = memReadByte m' len (pos + k)) :
    skipLen m len pos = skipLen m' len pos := by
  unfold skipLen
  rw [matchBytes_congr start4Bytes pos h,
    matchBytes_congr start3Bytes pos fun k hk => h k (Nat.lt_succ_of_lt hk)]

theorem skipZeros_congr (h : ∀ a, memReadByte m len a = memReadByte m' len a) (n p : Nat) :
    skipZeros m len n p = skipZeros m' len n p := by
  induction n generalizing p with
  | zero => rfl
  | succ n ih => rw [skipZeros, skipZeros, h p, ih (p + 1)]

theorem refUnit_congr {a : PktArgs} (h : ∀ x, memReadByte m a.len x = memReadByte m' a.len x)
    (cur r1 : Nat) : refUnit m a cur r1 = refUnit m' a cur r1 := by
  unfold refUnit
  rw [h cur, h (cur + 1)]

theorem refUnits_congr {a : PktArgs} (h : ∀ x, memReadByte m a.len x = memReadByte m' a.len x)
    (n r : Nat) : refUnits m a n r = refUnits m' a n r := by
  induction n generalizing r with
  | zero => rfl
  | succ n ih =>
    have hscan : ∀ cur, scan m a.len cur = scan m' a.len cur := fun _ => scan_congr fun x _ => h x
    simp only [refUnits, unitStart, skipZeros_congr h, hscan, refUnit_congr h, ih]

theorem packetize_congr {a : PktArgs} (h : ∀ x, memReadByte m a.len x = memReadByte m' a.len x) :
    packetize m a = packetize m' a := by
  have hscan : scan m a.len 0 = scan m' a.len 0 := scan_congr fun x _ => h x
  simp only [packetize, hscan, refUnits_congr h]

end Footprint

/-- SkipLen reads nothing where no three bytes are left (R39). -/
theorem skipLen_of_end {m : Memory} {len pos : Nat} (h : len < pos + 3) :
    skipLen m len pos = .ok 0 := by
  rw [skipLen, if_neg (by omega), if_neg (by omega)]

/-- With MAXSZ < 4 PKT reads nothing (R108). -/
theorem packetize_of_maxsz_lt {m : Memory} {a : PktArgs} (h : a.maxsz < 4) :
    packetize m a = .ok { packets := [], dec := false, param := true } :=
  if_pos h

/-- Settles O60: inside the footprint the reads agree; where it is empty nothing is read. -/
theorem resultsDependOnlyOnTheFootprint : Obligations.ResultsDependOnlyOnTheFootprint := by
  refine ⟨fun m m' len pos => ⟨fun h => ?_, fun h => ?_, fun p h => ?_⟩, fun i s t m' hi hb h => ?_⟩
  · rcases Nat.lt_or_ge len (pos + 3) with hend | hin
    · rw [scan_of_end hend, scan_of_end hend]
    · exact scan_congr fun a ha => memReadByte_congr fun hlt => h a ⟨hin, ha, hlt⟩
  · rcases Nat.lt_or_ge len (pos + 3) with hend | hin
    · rw [skipLen_of_end hend, skipLen_of_end hend]
    · exact skipLen_congr fun k hk => memReadByte_congr fun hlt =>
        h (pos + k) ⟨hin, Nat.le_add_right pos k, by omega, hlt⟩
  · rcases Nat.lt_or_ge p.maxsz 4 with hsmall | hlarge
    · rw [packetize_of_maxsz_lt hsmall, packetize_of_maxsz_lt hsmall]
    · exact packetize_congr fun a => memReadByte_congr fun hlt => h a ⟨hlarge, hlt⟩
  · have hb' : ({ s with buf := m' } : State).busy = false := hb
    rcases hi with ⟨b0, b1, rfl⟩ | ⟨f, ty, l, d, rfl⟩ | ⟨ty, rfl⟩
    · rw [exec_hdec_idle hb] at h
      cases h
      exact exec_hdec_idle hb' b0 b1
    · rw [exec_henc_idle hb] at h
      cases h
      exact exec_henc_idle hb' f ty l d
    · rw [exec_iskey_idle hb] at h
      cases h
      exact exec_iskey_idle hb' ty

end Sys2Proof.Machine

/-! PROOF. The operation of R106 as a function: what a unit's packets look like, and what that gives
for the packets of a whole PKT. -/

namespace Sys2Proof.Machine

/-! ### What the functions of R106 can answer -/

/-- A unit is one packet, or dropped, or fragmented (R106, steps 3 to 5). -/
theorem refUnit_ok_cases {m : Memory} {a : PktArgs} {cur r1 : Nat} {u : List Packet × Bool}
    (h : refUnit m a cur r1 = .ok u) :
    (r1 - cur ≤ a.maxsz ∧
      u = ([a.packet (decide (r1 = a.len)) none cur (r1 - cur)], false)) ∨
    (a.maxsz < r1 - cur ∧ r1 - cur < 2 ∧ u = ([], true)) ∨
    (∃ b0 b1, a.maxsz < r1 - cur ∧ 2 ≤ r1 - cur ∧ memReadByte m a.len cur = .ok b0 ∧
      memReadByte m a.len (cur + 1) = .ok b1 ∧
      u = (refFragments a (decide (r1 = a.len)) (a.maxsz - 3) (r1 - cur - 2)
        (firstFuBytes a.fuType b0 b1) (cur + 2) (r1 - cur - 2), false)) := by
  unfold refUnit at h
  split_ifs at h with hsmall hshort
  · cases h; exact .inl ⟨hsmall, rfl⟩
  · cases h; exact .inr (.inl ⟨Nat.lt_of_not_le hsmall, hshort, rfl⟩)
  · split at h
    next b0 b1 h0 h1 =>
      cases h
      exact .inr (.inr ⟨b0, b1, Nat.lt_of_not_le hsmall, Nat.le_of_not_lt hshort, h0, h1, rfl⟩)
    next => cases h
    next => cases h

theorem refUnits_of_len_le {m : Memory} {a : PktArgs} {r : Nat} (h : a.len ≤ r) (n : Nat) :
    refUnits m a n r = .ok ([], false) := by
  cases n with
  | zero => rfl
  | succ n => exact if_neg (Nat.not_lt.2 h)

/-- A turn of the unit loop: one unit and the rest. -/
theorem refUnits_succ_ok {m : Memory} {a : PktArgs} {n r : Nat} {us : List Packet × Bool}
    (hr : r < a.len) (h : refUnits m a (n + 1) r = .ok us) :
    ∃ cur r1 u vs, unitStart m a.len r = .ok cur ∧ scan m a.len cur = .ok r1 ∧
      refUnit m a cur r1 = .ok u ∧ refUnits m a n r1 = .ok vs ∧
      us = (u.1 ++ vs.1, u.2 || vs.2) := by
  rw [refUnits, if_pos hr] at h
  cases hstart : unitStart m a.len r with
  | error f => rw [hstart] at h; cases h
  | ok cur =>
    rw [hstart] at h
    cases hscan : scan m a.len cur with
    | error f => simp only [hscan] at h; cases h
    | ok r1 =>
      simp only [hscan] at h
      cases hu : refUnit m a cur r1 with
      | error f => simp only [hu] at h; cases h
      | ok u =>
        cases hv : refUnits m a n r1 with
        | error f => simp only [hu, hv] at h; cases h
        | ok vs =>
          simp only [hu, hv] at h
          cases h
          exact ⟨cur, r1, u, vs, rfl, hscan, hu, hv, rfl⟩

/-- What holds of the end and is kept by adding a unit in front holds of the units from every start
code on: the induction over the units of a buffer, once. -/
theorem refUnits_induction {m : Memory} {a : PktArgs} {P : Nat → List Packet × Bool → Prop}
    (stop : ∀ r, a.len ≤ r → P r ([], false))
    (unit : ∀ r cur r1 u vs, MatchAt m a.len r → unitStart m a.len r = .ok cur →
      scan m a.len cur = .ok r1 → refUnit m a cur r1 = .ok u → P r1 vs →
      P r (u.1 ++ vs.1, u.2 || vs.2)) (n r : Nat) (us : List Packet × Bool) (hn : a.len ≤ r + n)
    (hr : r < a.len → MatchAt m a.len r) (h : refUnits m a n r = .ok us) : P r us := by
  induction n generalizing r us with
  | zero => cases h; exact stop r hn
  | succ n ih =>
    rcases Nat.lt_or_ge r a.len with hlt | hge
    · obtain ⟨cur, r1, u, vs, hstart, hscan, hu, hv, rfl⟩ := refUnits_succ_ok hlt h
      have hrun := unitStart_ok (hr hlt).add_three_le hstart
      have hge1 : cur ≤ r1 := (scan_ok hscan).pos_le hrun.2.1
      have hgt : r + 3 ≤ cur := hrun.1
      exact unit r cur r1 u vs (hr hlt) hstart hscan hu
        (ih r1 vs (by omega) (fun hlt1 => (scan_ok hscan).matchAt hlt1) hv)
    · rw [refUnits_of_len_le hge] at h
      cases h
      exact stop r hge

/-- A run of R106: the parameter check fails, or the units from the first start code on (R108,
R109). -/
theorem packetize_ok_cases {m : Memory} {a : PktArgs} {run : PktRun}
    (h : packetize m a = .ok run) :
    (a.maxsz < 4 ∧ run = { packets := [], dec := false, param := true }) ∨
    (4 ≤ a.maxsz ∧ ∃ r us, scan m a.len 0 = .ok r ∧ refUnits m a (a.len - r) r = .ok us ∧
      run = { packets := us.1, dec := us.2, param := false }) := by
  rcases Nat.lt_or_ge a.maxsz 4 with hsmall | hlarge
  · rw [packetize_of_maxsz_lt hsmall] at h
    cases h
    exact .inl ⟨hsmall, rfl⟩
  · have hpass : ¬ a.maxsz < Config.minMaxsz := Nat.not_lt.2 hlarge
    rw [packetize, if_neg hpass] at h
    cases hscan : scan m a.len 0 with
    | error f => rw [hscan] at h; cases h
    | ok r =>
      rw [hscan] at h
      cases hus : refUnits m a (a.len - r) r with
      | error f => simp only [hus] at h; cases h
      | ok us =>
        simp only [hus] at h
        cases h
        exact .inr ⟨hlarge, r, us, rfl, hus, rfl⟩

/-- A property of the units of a buffer, for a run that passes the parameter check. -/
theorem packetize_induction {m : Memory} {a : PktArgs} {P : Nat → List Packet × Bool → Prop}
    (stop : ∀ r, a.len ≤ r → P r ([], false))
    (unit : ∀ r cur r1 u vs, MatchAt m a.len r → unitStart m a.len r = .ok cur →
      scan m a.len cur = .ok r1 → refUnit m a cur r1 = .ok u → P r1 vs →
      P r (u.1 ++ vs.1, u.2 || vs.2)) {r : Nat} {us : List Packet × Bool}
    (hscan : scan m a.len 0 = .ok r) (h : refUnits m a (a.len - r) r = .ok us) : P r us :=
  refUnits_induction stop unit (a.len - r) r us (by omega)
    (fun hlt => (scan_ok hscan).matchAt hlt) h

/-! ### The packets of one unit -/

/-- p stands before q in the buffer, and begins before it (R51). -/
def Packet.Before (p q : Packet) : Prop := p.off + p.len ≤ q.off ∧ p.off < q.off

/-- A list of packets whose last one carries this marker and no other one is marked. -/
def MarkedAtEnd (mark : Bool) (ps : List Packet) : Prop :=
  ∃ init p, ps = init ++ [p] ∧ p.m = mark ∧ ∀ q ∈ init, q.m = false

/-- What the packets of the unit B[cur .. r1) look like (R51, R123, R129). -/
structure UnitPackets (mark : Bool) (cur r1 : Nat) (ps : List Packet) : Prop where
  marked  : MarkedAtEnd mark ps
  inside  : ∀ q ∈ ps, cur ≤ q.off ∧ q.off + q.len ≤ r1
  ordered : ps.Pairwise Packet.Before
  count   : ps.length ≤ r1 - cur + 1

theorem MarkedAtEnd.singleton {mark : Bool} {p : Packet} (h : p.m = mark) : MarkedAtEnd mark [p] :=
  ⟨[], p, rfl, h, fun _ hq => absurd hq List.not_mem_nil⟩

theorem MarkedAtEnd.cons {mark : Bool} {p : Packet} {ps : List Packet} (hp : p.m = false)
    (h : MarkedAtEnd mark ps) : MarkedAtEnd mark (p :: ps) := by
  obtain ⟨init, q, rfl, hq, hinit⟩ := h
  exact ⟨p :: init, q, rfl, hq, List.forall_mem_cons.2 ⟨hp, hinit⟩⟩

/-- A list marked nowhere, then one marked at its end. -/
theorem MarkedAtEnd.append {mark : Bool} {ps qs : List Packet} (hps : ∀ p ∈ ps, p.m = false)
    (h : MarkedAtEnd mark qs) : MarkedAtEnd mark (ps ++ qs) := by
  induction ps with
  | nil => exact h
  | cons p ps ih =>
    obtain ⟨hp, hps⟩ := List.forall_mem_cons.1 hps
    exact (ih hps).cons hp

theorem MarkedAtEnd.eq_false {ps : List Packet} (h : MarkedAtEnd false ps) :
    ∀ p ∈ ps, p.m = false := by
  obtain ⟨init, q, rfl, hq, hinit⟩ := h
  intro p hp
  rcases List.mem_append.1 hp with hp | hp
  · exact hinit p hp
  · rw [List.mem_singleton.1 hp]
    exact hq

/-- A packet alone in its range. -/
theorem UnitPackets.singleton {mark : Bool} {cur r1 : Nat} {p : Packet} (hm : p.m = mark)
    (hcur : cur ≤ p.off) (hr1 : p.off + p.len ≤ r1) : UnitPackets mark cur r1 [p] where
  marked := .singleton hm
  inside q hq := by rw [List.mem_singleton.1 hq]; exact ⟨hcur, hr1⟩
  ordered := List.pairwise_singleton _ p
  count := by simp

/-- A packet of at least one byte before the packets of the rest of its range. -/
theorem UnitPackets.cons {mark : Bool} {cur mid r1 : Nat} {p : Packet} {ps : List Packet}
    (h : UnitPackets mark mid r1 ps) (hp : p.m = false) (hcur : cur ≤ p.off) (hlen : 1 ≤ p.len)
    (hmid : p.off + p.len = mid) (hr1 : mid ≤ r1) : UnitPackets mark cur r1 (p :: ps) where
  marked := h.marked.cons hp
  inside q hq := by
    rcases List.mem_cons.1 hq with rfl | hq
    · exact ⟨hcur, by omega⟩
    · obtain ⟨h1, h2⟩ := h.inside q hq
      exact ⟨by omega, h2⟩
  ordered := List.pairwise_cons.2 ⟨fun q hq => by
    obtain ⟨h1, -⟩ := h.inside q hq
    exact ⟨by omega, by omega⟩, h.ordered⟩
  count := by
    have hcount := h.count
    rw [List.length_cons]
    omega

theorem UnitPackets.mono {mark : Bool} {cur cur' r1 : Nat} {ps : List Packet}
    (h : UnitPackets mark cur r1 ps) (hle : cur' ≤ cur) : UnitPackets mark cur' r1 ps where
  marked := h.marked
  inside q hq := ⟨hle.trans (h.inside q hq).1, (h.inside q hq).2⟩
  ordered := h.ordered
  count := by
    have hcount := h.count
    omega

/-- The fragments of a unit: every one but the last is FLEN long, and they follow one another. -/
theorem refFragments_unitPackets (a : PktArgs) (mark : Bool) {flen : Nat} (hflen : 1 ≤ flen)
    (n : Nat) (fu : FuBytes) (off rem : Nat) :
    UnitPackets mark off (off + rem) (refFragments a mark flen n fu off rem) := by
  induction n generalizing fu off rem with
  | zero => exact .singleton rfl (le_refl _) (le_refl _)
  | succ n ih =>
    rw [refFragments]
    split_ifs with hmore
    · have hrest := ih { fu with b2 := fu2ClearStart fu.b2 } (off + flen) (rem - flen)
      rw [show off + flen + (rem - flen) = off + rem by omega] at hrest
      exact hrest.cons rfl (le_refl _) hflen rfl (by omega)
    · exact .singleton rfl (le_refl _) (le_refl _)

/-- A unit of R106 raises no DEC and gives packets that lie in it, in order, marked at the end if
the unit ends at LEN (R115, R123, R129). -/
theorem refUnit_packets {m : Memory} {a : PktArgs} {cur r1 : Nat} {u : List Packet × Bool}
    (hmax : 4 ≤ a.maxsz) (hle : cur ≤ r1) (h : refUnit m a cur r1 = .ok u) :
    u.2 = false ∧ UnitPackets (decide (r1 = a.len)) cur r1 u.1 := by
  rcases refUnit_ok_cases h with ⟨-, rfl⟩ | ⟨hbig, hshort, -⟩ | ⟨b0, b1, hbig, hlong, -, -, rfl⟩
  · refine ⟨rfl, .singleton rfl (le_refl _) ?_⟩
    change cur + (r1 - cur) ≤ r1
    omega
  · omega
  · refine ⟨rfl, ?_⟩
    have hfrags := refFragments_unitPackets a (decide (r1 = a.len)) (flen := a.maxsz - 3) (by omega)
      (r1 - cur - 2) (firstFuBytes a.fuType b0 b1) (cur + 2) (r1 - cur - 2)
    rw [show cur + 2 + (r1 - cur - 2) = r1 by omega] at hfrags
    exact hfrags.mono (by omega)

/-! ### The packets of one PKT -/

section Units

variable {m : Memory} {a : PktArgs} {r cur r1 : Nat}

/-- Where the unit after a start code stands. -/
theorem unit_bounds (hr : MatchAt m a.len r) (hstart : unitStart m a.len r = .ok cur)
    (hscan : scan m a.len cur = .ok r1) : r + 3 ≤ cur ∧ cur ≤ r1 ∧ r1 ≤ a.len := by
  have hrun := unitStart_ok hr.add_three_le hstart
  exact ⟨hrun.1, (scan_ok hscan).pos_le hrun.2.1, (scan_ok hscan).le_len⟩

theorem refUnits_dec {us : List Packet × Bool} (hmax : 4 ≤ a.maxsz)
    (hscan : scan m a.len 0 = .ok r) (h : refUnits m a (a.len - r) r = .ok us) : us.2 = false := by
  refine packetize_induction (P := fun _ us => us.2 = false) (fun _ _ => rfl) ?_ hscan h
  intro r cur r1 u vs hr hstart hscan hu ih
  obtain ⟨-, hle, -⟩ := unit_bounds hr hstart hscan
  rw [(refUnit_packets hmax hle hu).1, ih, Bool.or_false]

/-- From a start code on there is a last packet, it alone is marked (R123). -/
theorem refUnits_marked {us : List Packet × Bool} (hmax : 4 ≤ a.maxsz)
    (hscan : scan m a.len 0 = .ok r) (h : refUnits m a (a.len - r) r = .ok us) :
    (a.len ≤ r → us.1 = []) ∧ (r < a.len → MarkedAtEnd true us.1) := by
  refine packetize_induction
    (P := fun r us => (a.len ≤ r → us.1 = []) ∧ (r < a.len → MarkedAtEnd true us.1))
    (fun r hr => ⟨fun _ => rfl, fun hlt => by omega⟩) ?_ hscan h
  intro r cur r1 u vs hr hstart hscan hu ih
  obtain ⟨hcur, hle, hend⟩ := unit_bounds hr hstart hscan
  obtain ⟨hstop, hgo⟩ := ih
  have hunit := (refUnit_packets hmax hle hu).2
  refine ⟨fun hge => by have := hr.1; omega, fun _ => ?_⟩
  rcases Nat.lt_or_ge r1 a.len with hlt | hge
  · have hfalse : decide (r1 = a.len) = false := decide_eq_false (by omega)
    exact (hgo hlt).append (hfalse ▸ hunit.marked).eq_false
  · have htrue : decide (r1 = a.len) = true := decide_eq_true (by omega)
    rw [hstop hge, List.append_nil]
    exact htrue ▸ hunit.marked

/-- The packets from a start code on stand behind it, in order (R51). -/
theorem refUnits_ordered {us : List Packet × Bool} (hmax : 4 ≤ a.maxsz)
    (hscan : scan m a.len 0 = .ok r) (h : refUnits m a (a.len - r) r = .ok us) :
    us.1.Pairwise Packet.Before ∧ ∀ q ∈ us.1, r + 3 ≤ q.off := by
  refine packetize_induction
    (P := fun r us => us.1.Pairwise Packet.Before ∧ ∀ q ∈ us.1, r + 3 ≤ q.off)
    (fun r hr => ⟨List.Pairwise.nil, fun q hq => absurd hq List.not_mem_nil⟩) ?_ hscan h
  intro r cur r1 u vs hr hstart hscan hu ih
  obtain ⟨hcur, hle, -⟩ := unit_bounds hr hstart hscan
  obtain ⟨hordered, hbehind⟩ := ih
  have hunit := (refUnit_packets hmax hle hu).2
  constructor
  · refine List.pairwise_append.2 ⟨hunit.ordered, hordered, fun p hp q hq => ?_⟩
    obtain ⟨-, hp2⟩ := hunit.inside p hp
    have hq1 := hbehind q hq
    exact ⟨by omega, by omega⟩
  · intro q hq
    rcases List.mem_append.1 hq with hq | hq
    · have := (hunit.inside q hq).1
      omega
    · have := hbehind q hq
      omega

/-- Each unit has at most as many packets as it and its start code have bytes. -/
theorem refUnits_count {us : List Packet × Bool} (hmax : 4 ≤ a.maxsz)
    (hscan : scan m a.len 0 = .ok r) (h : refUnits m a (a.len - r) r = .ok us) :
    us.1.length ≤ a.len - r := by
  refine packetize_induction (P := fun r us => us.1.length ≤ a.len - r)
    (fun r _ => Nat.zero_le _) ?_ hscan h
  intro r cur r1 u vs hr hstart hscan hu ih
  obtain ⟨hcur, hle, hend⟩ := unit_bounds hr hstart hscan
  have hcount := (refUnit_packets hmax hle hu).2.count
  rw [List.length_append]
  omega

end Units

/-- Settles O53: no unit raises DEC, and without a start code the first scan answers LEN. -/
theorem packetizeRaisesNoDecAndNeedsAStartCode :
    Obligations.PacketizeRaisesNoDecAndNeedsAStartCode := by
  intro m a run h
  rcases packetize_ok_cases h with ⟨hsmall, rfl⟩ | ⟨hlarge, r, us, hscan, hus, rfl⟩
  · exact ⟨rfl, iff_of_true rfl (by omega), fun _ => rfl⟩
  · refine ⟨refUnits_dec hlarge hscan hus, iff_of_false Bool.false_ne_true (by omega),
      fun hno => ?_⟩
    have hr : a.len ≤ r := by
      by_contra hlt
      exact hno r ((scan_ok hscan).matchAt (by omega))
    exact (refUnits_marked hlarge hscan hus).1 hr

/-- Settles O54: the last unit ends at LEN, and no other one does. -/
theorem exactlyTheLastPacketIsMarked : Obligations.ExactlyTheLastPacketIsMarked := by
  intro m a run h hne
  rcases packetize_ok_cases h with ⟨-, rfl⟩ | ⟨hlarge, r, us, hscan, hus, rfl⟩
  · exact absurd rfl hne
  · obtain ⟨hstop, hgo⟩ := refUnits_marked hlarge hscan hus
    rcases Nat.lt_or_ge r a.len with hlt | hge
    · exact hgo hlt
    · exact absurd (hstop hge) hne

/-- Settles O55: each unit's packets stand before the next start code. -/
theorem packetsAreInBufferOrder : Obligations.PacketsAreInBufferOrder := by
  intro m a run h
  rcases packetize_ok_cases h with ⟨-, rfl⟩ | ⟨hlarge, r, us, hscan, hus, rfl⟩
  · exact List.Pairwise.nil
  · exact (refUnits_ordered hlarge hscan hus).1

/-- Settles O56: LEN alone bounds the number. -/
theorem packetCountIsBounded : Obligations.PacketCountIsBounded := by
  intro m a run h
  rcases packetize_ok_cases h with ⟨-, rfl⟩ | ⟨hlarge, r, us, hscan, hus, rfl⟩
  · exact Nat.zero_le _
  · exact ((refUnits_count hlarge hscan hus).trans (Nat.sub_le _ _)).trans (Nat.le_add_left _ _)

end Sys2Proof.Machine

/-! PROOF. Whole operations: runs of the block's own steps, what they send, and that the phases send
what R106 says and come to an end. -/

namespace Sys2Proof.Machine

/-! ### Runs of the block's own steps -/

/-- One own step of a busy block. -/
def OwnStep (s t : State) : Prop := s.busy = true ∧ BlockMove s t

/-- Any number of own steps. -/
abbrev OwnRun : State → State → Prop := Relation.ReflTransGen OwnStep

/-- The block's own step does not look at the host's list. -/
theorem BlockMove.withHost {s t : State} (h : BlockMove s t) (r : List HostEvent) :
    BlockMove (s.withHost r) (t.withHost r) := by
  cases h with
  | idle hp => exact .idle hp
  | first hp hscan => exact .first (s := s.withHost r) hp hscan
  | skip hp hstart => exact .skip (s := s.withHost r) hp hstart
  | next hp hscan => exact .next (s := s.withHost r) hp hscan
  | stall hp hv ha => exact .stall hp hv ha
  | singlePut hp hv => exact .singlePut (s := s.withHost r) hp hv
  | singleTake hp hv ha => exact .singleTake (s := s.withHost r) hp hv ha
  | shortUnit hp hshort => exact .shortUnit (s := s.withHost r) hp hshort
  | fragInit hp hlong h0 h1 => exact .fragInit (s := s.withHost r) hp hlong h0 h1
  | fragPut hp hv hmore => exact .fragPut (s := s.withHost r) hp hv hmore
  | fragTake hp hv ha => exact .fragTake (s := s.withHost r) hp hv ha
  | fragLeave hp hv hlast => exact .fragLeave (s := s.withHost r) hp hv hlast
  | lastPut hp hv => exact .lastPut (s := s.withHost r) hp hv
  | lastTake hp hv ha => exact .lastTake (s := s.withHost r) hp hv ha
  | adv hp => exact .adv (s := s.withHost r) hp
  | finish hp => exact .finish (s := s.withHost r) hp

/-- Under a host that waits or presents commands a run of own steps is a run of the machine; only
the host's list differs (R19; log entries 6, 21). -/
theorem OwnRun.core_run {s t : State} (h : OwnRun s t) (r : List HostEvent)
    (hq : quietHost (s.withHost r) = true) :
    ∃ k rest, core.run k (s.withHost r) = .next (t.withHost rest) := by
  induction h using Relation.ReflTransGen.head_induction_on generalizing r with
  | refl => exact ⟨0, r, rfl⟩
  | @head s u hstep _ ih =>
    obtain ⟨hb, hmove⟩ := hstep
    obtain ⟨b, hown, hq'⟩ := takesOwnStep_of_quiet (s := s.withHost r) hb hq
    have hbs : b = s.withHost b.host := hown.eq_withHost
    have hmove' : BlockMove b (u.withHost b.host) := by
      have hwith := hmove.withHost b.host
      rwa [← hbs] at hwith
    obtain ⟨k, rest, hrun⟩ := ih b.host hq'
    exact ⟨k + 1, rest, (core_run_succ (step_of_move hown hmove')).trans hrun⟩

/-- The run of the machine from the state itself. -/
theorem OwnRun.exists_core_run {s t : State} (h : OwnRun s t) (hq : quietHost s = true) :
    ∃ k rest, core.run k s = .next (t.withHost rest) :=
  h.core_run s.host hq

/-! ### What a run sends -/

/-- A run of own steps that sends these packets, in this order, each answered once: what it does to
the sink and to RESULT, and what it leaves (R121, R122). -/
structure Sends (ps : List Packet) (s t : State) : Prop where
  run      : OwnRun s t
  frame    : OwnFrame s t
  busy     : t.busy = s.busy
  answers  : t.sink.answers = s.sink.answers.drop ps.length
  received : t.sink.received =
    s.sink.received ++ ps.zip ((s.sink.answers.take ps.length).map s.widths.answer)
  sinkErr  : t.sinkErr =
    (s.sinkErr || (s.sink.answers.take ps.length).any fun a => s.widths.answer a != 0)
  decErr   : t.decErr = s.decErr
  paramErr : t.paramErr = s.paramErr

theorem OwnFrame.trans {s t u : State} (h1 : OwnFrame s t) (h2 : OwnFrame t u) : OwnFrame s u :=
  ⟨h2.buf.trans h1.buf, h2.opr.trans h1.opr, h2.res.trans h1.res, h2.written.trans h1.written,
    h2.fuType.trans h1.fuType, h2.widths.trans h1.widths, h2.host.trans h1.host⟩

/-- Sending one list and then another. -/
theorem Sends.trans {ps qs : List Packet} {s t u : State} (h1 : Sends ps s t) (h2 : Sends qs t u)
    (hlen : ps.length ≤ s.sink.answers.length) : Sends (ps ++ qs) s u where
  run := h1.run.trans h2.run
  frame := h1.frame.trans h2.frame
  busy := h2.busy.trans h1.busy
  answers := by rw [h2.answers, h1.answers, List.drop_drop, List.length_append]
  received := by
    rw [h2.received, h1.received, h1.answers, h1.frame.widths, List.length_append, List.take_add,
      List.map_append, List.zip_append, List.append_assoc]
    rw [List.length_map, List.length_take, Nat.min_eq_left hlen]
  sinkErr := by
    rw [h2.sinkErr, h1.sinkErr, h1.answers, h1.frame.widths, List.length_append, List.take_add,
      List.any_append, Bool.or_assoc]
  decErr := h2.decErr.trans h1.decErr
  paramErr := h2.paramErr.trans h1.paramErr

/-- A move that sends nothing. -/
theorem Sends.silent {s t : State} (hb : s.busy = true) (hmove : BlockMove s t)
    (hsink : t.sink = s.sink) (hresult : t.result = s.result) (hstatus : t.status = s.status) :
    Sends [] s t where
  run := .single ⟨hb, hmove⟩
  frame := hmove.frame
  busy := busy_of_status hstatus
  answers := by rw [hsink]; rfl
  received := by rw [hsink]; exact (List.append_nil _).symm
  sinkErr := by rw [State.sinkErr, hresult]; exact (Bool.or_false _).symm
  decErr := by rw [State.decErr, hresult]; rfl
  paramErr := by rw [State.paramErr, hresult]; rfl

/-- A move that takes the answer of the packet on the port. -/
theorem Sends.take {s t : State} {a : Nat} {rest : List Nat} (hb : s.busy = true)
    (hmove : BlockMove s t) (ha : s.sink.answers = a :: rest)
    (hsink : t.sink = (answered (s.widths.answer a) rest s).sink)
    (hresult : t.result = (answered (s.widths.answer a) rest s).result)
    (hstatus : t.status = s.status) : Sends [packetView s.pk] s t where
  run := .single ⟨hb, hmove⟩
  frame := hmove.frame
  busy := busy_of_status hstatus
  answers := by rw [hsink, ha]; rfl
  received := by rw [hsink, ha]; rfl
  sinkErr := by
    have herr : t.sinkErr = (answered (s.widths.answer a) rest s).sinkErr := by
      rw [State.sinkErr, hresult]; rfl
    rw [herr, answered_sinkErr, ha]
    exact congrArg _ (Bool.or_false _).symm
  decErr := by
    rw [State.decErr, hresult]
    exact answered_decErr s _ _
  paramErr := by
    rw [State.paramErr, hresult]
    exact answered_paramErr s _ _

/-- A packet presented by one move and answered by the next. -/
theorem Sends.put_take {s u t : State} (hb : s.busy = true) (hput : BlockMove s u)
    (hsink : u.sink = s.sink) (hresult : u.result = s.result) (hstatus : u.status = s.status)
    (h : Sends [packetView u.pk] u t) : Sends [packetView u.pk] s t :=
  (Sends.silent hb hput hsink hresult hstatus).trans h (Nat.zero_le _)

/-! ### The fragments of a unit -/

/-- Where the sending of a unit ends: phase ADV, no packet on the port, the same R1. -/
def AtAdv (r1 : Nat) (t : State) : Prop := t.ph = .adv ∧ t.pk.valid = false ∧ t.work.r1 = r1

/-- The whole unit as one packet (R112). -/
theorem sends_single {s : State} (hb : s.busy = true) (hp : s.ph = .single)
    (hv : s.pk.valid = false) (hlen : 1 ≤ s.sink.answers.length) :
    ∃ t, Sends [s.pktArgs.packet s.work.mark none s.work.cur s.work.ulen] s t ∧
      AtAdv s.work.r1 t := by
  obtain ⟨a, rest, ha⟩ := List.exists_cons_of_length_pos hlen
  have hput := BlockMove.singlePut hp hv
  have htake := BlockMove.singleTake (s := present s.work.mark none s.work.cur s.work.ulen s)
    hp rfl ha
  exact ⟨_, .put_take hb hput rfl rfl rfl (.take hb htake ha rfl rfl rfl), rfl, rfl, rfl⟩

/-- The final fragment, from FRAG_LOOP on (R117, R118). -/
theorem sends_lastFragment {s : State} (hb : s.busy = true) (hp : s.ph = .fragLoop)
    (hv : s.pk.valid = false) (hlast : s.work.rem ≤ s.work.flen)
    (hlen : 1 ≤ s.sink.answers.length) :
    ∃ t, Sends [s.pktArgs.packet s.work.mark
        (some { s.work.fuBytes with b2 := fu2SetEnd s.work.fuBytes.b2 }) s.work.off s.work.rem]
        s t ∧
      AtAdv s.work.r1 t := by
  obtain ⟨a, rest, ha⟩ := List.exists_cons_of_length_pos hlen
  have hleave := BlockMove.fragLeave hp hv hlast
  have hput := BlockMove.lastPut (s := toPhase .fragLast s) rfl hv
  have htake := BlockMove.lastTake (s := presentLast (toPhase .fragLast s)) rfl rfl ha
  have hsend := Sends.put_take (s := toPhase .fragLast s) hb hput rfl rfl rfl
    (.take (s := presentLast (toPhase .fragLast s)) hb htake ha rfl rfl rfl)
  exact ⟨_, (Sends.silent hb hleave rfl rfl rfl).trans hsend (Nat.zero_le _), rfl, rfl, rfl⟩

/-- The list of R106 when one fragment is left. -/
theorem refFragments_of_le (a : PktArgs) (mark : Bool) {flen rem : Nat} (h : rem ≤ flen) (n : Nat)
    (fu : FuBytes) (off : Nat) :
    refFragments a mark flen n fu off rem =
      [a.packet mark (some { fu with b2 := fu2SetEnd fu.b2 }) off rem] := by
  cases n with
  | zero => rfl
  | succ n => exact if_neg (Nat.not_lt.2 h)

/-- FRAG_LOOP and FRAG_LAST send the fragments of R106 (R117, R118). -/
theorem sends_fragments (n : Nat) {s : State} (hb : s.busy = true) (hp : s.ph = .fragLoop)
    (hv : s.pk.valid = false) (hflen : 1 ≤ s.work.flen) (hn : s.work.rem ≤ n)
    (hlen : (refFragments s.pktArgs s.work.mark s.work.flen n s.work.fuBytes s.work.off
      s.work.rem).length ≤ s.sink.answers.length) :
    ∃ t, Sends (refFragments s.pktArgs s.work.mark s.work.flen n s.work.fuBytes s.work.off
        s.work.rem) s t ∧ AtAdv s.work.r1 t := by
  induction n generalizing s with
  | zero =>
    rw [refFragments_of_le _ _ (show s.work.rem ≤ s.work.flen by omega)] at hlen ⊢
    exact sends_lastFragment hb hp hv (by omega) hlen
  | succ n ih =>
    rcases Nat.lt_or_ge s.work.flen s.work.rem with hmore | hlast
    · rw [refFragments, if_pos hmore] at hlen ⊢
      rw [List.length_cons] at hlen
      obtain ⟨a, rest, ha⟩ :=
        List.exists_cons_of_length_pos (Nat.lt_of_lt_of_le (Nat.succ_pos _) hlen)
      have hput := BlockMove.fragPut hp hv hmore
      have htake := BlockMove.fragTake
        (s := present false (some s.work.fuBytes) s.work.off s.work.flen s) hp rfl ha
      have hsend := Sends.put_take hb hput rfl rfl rfl (.take hb htake ha rfl rfl rfl)
      have hone : 1 ≤ s.sink.answers.length := by rw [ha]; exact Nat.succ_pos _
      rw [ha, List.length_cons] at hlen
      obtain ⟨t, hrest, hadv⟩ := ih (s := fragAdvance (answered (s.widths.answer a) rest
        (present false (some s.work.fuBytes) s.work.off s.work.flen s))) hb hp rfl hflen
        (by change s.work.rem - s.work.flen ≤ n; omega) (Nat.le_of_succ_le_succ hlen)
      exact ⟨t, hsend.trans hrest hone, hadv⟩
    · rw [refFragments_of_le _ _ hlast] at hlen ⊢
      exact sends_lastFragment hb hp hv hlast hlen

end Sys2Proof.Machine


namespace Sys2Proof.Machine

/-! ### One unit, the units of a buffer, and the whole of PKT (R106) -/

/-- SKIP and NEXT delimit the unit and choose its form (R110, R111). -/
theorem sends_delimit {s : State} {cur r1 : Nat} (hb : s.busy = true) (hp : s.ph = .skip)
    (hstart : unitStart s.buf s.opr.len s.work.r = .ok cur)
    (hscan : scan s.buf s.opr.len cur = .ok r1) :
    Sends [] s { s with
      work := { s.work with
        cur := cur, r1 := r1, mark := decide (r1 = s.opr.len), ulen := r1 - cur }
      ph := if r1 - cur ≤ s.opr.maxsz then .single else .fragInit } :=
  (Sends.silent hb (.skip hp hstart) rfl rfl rfl).trans
    (Sends.silent hb
      (.next (s := { s with work := { s.work with cur := cur }, ph := .next }) rfl hscan)
      rfl rfl rfl)
    (Nat.zero_le _)

/-- FRAG_INIT and the fragments that follow it (R114 to R118). -/
theorem sends_fragmented {s : State} {b0 b1 : Byte} (hb : s.busy = true) (hp : s.ph = .fragInit)
    (hv : s.pk.valid = false) (hmax : 4 ≤ s.opr.maxsz) (hlong : 2 ≤ s.work.ulen)
    (h0 : memReadByte s.buf s.opr.len s.work.cur = .ok b0)
    (h1 : memReadByte s.buf s.opr.len (s.work.cur + 1) = .ok b1)
    (hlen : (refFragments s.pktArgs s.work.mark (s.opr.maxsz - 3) (s.work.ulen - 2)
      (firstFuBytes s.fuType b0 b1) (s.work.cur + 2) (s.work.ulen - 2)).length ≤
        s.sink.answers.length) :
    ∃ t, Sends (refFragments s.pktArgs s.work.mark (s.opr.maxsz - 3) (s.work.ulen - 2)
        (firstFuBytes s.fuType b0 b1) (s.work.cur + 2) (s.work.ulen - 2)) s t ∧
      AtAdv s.work.r1 t := by
  have hinit := BlockMove.fragInit hp hlong h0 h1
  have hflen : 1 ≤ s.opr.maxsz - 3 := by omega
  obtain ⟨t, hsend, hadv⟩ := sends_fragments (s.work.ulen - 2)
    (s := { setFlen s with
      work := fragHeader s.fuType b0 b1 (setFlen s).work, ph := .fragLoop })
    hb rfl hv hflen (le_refl _) hlen
  exact ⟨t, (Sends.silent hb hinit rfl rfl rfl).trans hsend (Nat.zero_le _), hadv⟩

/-- From SKIP to ADV the block sends the unit's packets of R106. -/
theorem sends_unit {s : State} {cur r1 : Nat} {u : List Packet × Bool} (hb : s.busy = true)
    (hp : s.ph = .skip) (hv : s.pk.valid = false) (hmax : 4 ≤ s.opr.maxsz)
    (hstart : unitStart s.buf s.opr.len s.work.r = .ok cur)
    (hscan : scan s.buf s.opr.len cur = .ok r1)
    (hu : refUnit s.buf s.pktArgs cur r1 = .ok u) (hlen : u.1.length ≤ s.sink.answers.length) :
    ∃ t, Sends u.1 s t ∧ AtAdv r1 t := by
  have hdelimit := sends_delimit hb hp hstart hscan
  rcases refUnit_ok_cases hu with ⟨hsmall, rfl⟩ | ⟨hbig, hshort, -⟩ |
    ⟨b0, b1, hbig, hlong, h0, h1, rfl⟩
  · replace hsmall : r1 - cur ≤ s.opr.maxsz := hsmall
    rw [if_pos hsmall] at hdelimit
    obtain ⟨t, hsend, hadv⟩ := sends_single (s := { s with
      work := { s.work with
        cur := cur, r1 := r1, mark := decide (r1 = s.opr.len), ulen := r1 - cur }
      ph := .single }) hb rfl hv hlen
    exact ⟨t, hdelimit.trans hsend (Nat.zero_le _), hadv⟩
  · replace hbig : s.opr.maxsz < r1 - cur := hbig
    omega
  · replace hbig : s.opr.maxsz < r1 - cur := hbig
    rw [if_neg (Nat.not_le.2 hbig)] at hdelimit
    obtain ⟨t, hsend, hadv⟩ := sends_fragmented (s := { s with
      work := { s.work with
        cur := cur, r1 := r1, mark := decide (r1 = s.opr.len), ulen := r1 - cur }
      ph := .fragInit }) hb rfl hv hmax hlong h0 h1 hlen
    exact ⟨t, hdelimit.trans hsend (Nat.zero_le _), hadv⟩

/-- The block is where R106 turns to the units from position r on: in SKIP at a start code, in
FINISH at the end (R109, R119). -/
structure AtUnits (m : Memory) (a : PktArgs) (r : Nat) (s : State) : Prop where
  busy  : s.busy = true
  buf   : s.buf = m
  args  : s.pktArgs = a
  valid : s.pk.valid = false
  pos   : s.work.r = r
  ph    : s.ph = if r < a.len then .skip else .finish

/-- The arguments of PKT stand while it runs (R37). -/
theorem OwnFrame.pktArgs {s t : State} (h : OwnFrame s t) : t.pktArgs = s.pktArgs := by
  unfold State.pktArgs
  rw [h.opr, h.fuType]

/-- From unit to unit: the packets of R106, up to FINISH. -/
theorem sends_units {m : Memory} {a : PktArgs} (hmax : 4 ≤ a.maxsz) {r : Nat}
    {us : List Packet × Bool} (hscan : scan m a.len 0 = .ok r)
    (h : refUnits m a (a.len - r) r = .ok us) (s : State) (hs : AtUnits m a r s)
    (hlen : us.1.length ≤ s.sink.answers.length) :
    ∃ t, Sends us.1 s t ∧ t.ph = .finish ∧ t.pk.valid = false := by
  refine packetize_induction
    (P := fun r us => ∀ s, AtUnits m a r s → us.1.length ≤ s.sink.answers.length →
      ∃ t, Sends us.1 s t ∧ t.ph = .finish ∧ t.pk.valid = false) ?_ ?_ hscan h s hs hlen
  · intro r hr s hs _
    have hp : s.ph = .finish := hs.ph.trans (if_neg (Nat.not_lt.2 hr))
    exact ⟨s, ⟨.refl, ⟨rfl, rfl, rfl, rfl, rfl, rfl, rfl⟩, rfl, rfl, (List.append_nil _).symm,
      (Bool.or_false _).symm, rfl, rfl⟩, hp, hs.valid⟩
  · rintro r cur r1 u vs hr hstart hscan hu ih s ⟨hb, rfl, rfl, hv, rfl, hp⟩ hlen
    have hlt : s.work.r < s.pktArgs.len := by have := hr.1; omega
    rw [if_pos hlt] at hp
    rw [List.length_append] at hlen
    obtain ⟨t, hsend, htp, htv, htr⟩ := sends_unit hb hp hv hmax hstart hscan hu (by omega)
    have htb : t.busy = true := hsend.busy.trans hb
    have hadv := Sends.silent htb (.adv htp) rfl rfl rfl
    have hat : AtUnits s.buf s.pktArgs r1 { t with
        work := { t.work with r := t.work.r1 }
        ph := if t.work.r1 < t.opr.len then .skip else .finish } := by
      refine ⟨htb, hsend.frame.buf, hsend.frame.pktArgs, htv, htr, ?_⟩
      change (if t.work.r1 < t.opr.len then Phase.skip else Phase.finish) = _
      rw [htr, hsend.frame.opr]
      rfl
    have hleft : vs.1.length ≤ t.sink.answers.length := by
      rw [hsend.answers, List.length_drop]
      omega
    obtain ⟨w, hrest, hw⟩ := ih _ hat hleft
    exact ⟨w, hsend.trans (hadv.trans hrest (Nat.zero_le _)) (by omega), hw⟩

/-- The block just after it took PKT, with the operands at their widths. -/
def afterPkt (len maxsz : Nat) (ts : Stamp) (ctx : Nat) (s : State) : State :=
  { s with
    opr := { s.opr with op := 5, len := len, maxsz := maxsz, ts := ts, ctx := ctx }
    status := 1
    result := if maxsz ≤ 3 then 4 else 0
    ph := if maxsz ≤ 3 then .finish else .first }

theorem afterPkt_busy (len maxsz : Nat) (ts : Stamp) (ctx : Nat) (s : State) :
    (afterPkt len maxsz ts ctx s).busy = true :=
  (busy_of_status (x := 1) rfl).trans (by decide)

/-- A PKT over which R106 gives a run sends the packets of the run and comes to FINISH, with no
error but SINK's and PARAM's as the run says. -/
theorem sends_packetize {len maxsz : Nat} {ts : Stamp} {ctx : Nat} {s : State} {run : PktRun}
    (hv : s.pk.valid = false)
    (h : packetize s.buf (afterPkt len maxsz ts ctx s).pktArgs = .ok run)
    (hlen : run.packets.length ≤ s.sink.answers.length) :
    ∃ t, Sends run.packets (afterPkt len maxsz ts ctx s) t ∧ t.ph = .finish ∧ t.pk.valid = false ∧
      (afterPkt len maxsz ts ctx s).sinkErr = false ∧
      (afterPkt len maxsz ts ctx s).decErr = run.dec ∧
      (afterPkt len maxsz ts ctx s).paramErr = run.param := by
  rcases packetize_ok_cases h with ⟨hsmall, rfl⟩ | ⟨hlarge, r, us, hscan, hus, rfl⟩
  · have hle : maxsz ≤ 3 := Nat.le_of_lt_succ hsmall
    have hres : (afterPkt len maxsz ts ctx s).result = 4 := if_pos hle
    refine ⟨_, ⟨.refl, ⟨rfl, rfl, rfl, rfl, rfl, rfl, rfl⟩, rfl, rfl, (List.append_nil _).symm,
      (Bool.or_false _).symm, rfl, rfl⟩, if_pos hle, hv, ?_, ?_, ?_⟩
    · rw [State.sinkErr, hres]; rfl
    · rw [State.decErr, hres]; rfl
    · rw [State.paramErr, hres]; rfl
  · have hgt : ¬ maxsz ≤ 3 := Nat.not_le.2 hlarge
    have hres : (afterPkt len maxsz ts ctx s).result = 0 := if_neg hgt
    have hb := afterPkt_busy len maxsz ts ctx s
    have hp : (afterPkt len maxsz ts ctx s).ph = .first := if_neg hgt
    have hfirst := Sends.silent hb (.first hp hscan) rfl rfl rfl
    obtain ⟨t, hsend, htp, htv⟩ := sends_units hlarge hscan hus
      { afterPkt len maxsz ts ctx s with
        work := { s.work with r := r }
        ph := if r < (afterPkt len maxsz ts ctx s).opr.len then .skip else .finish }
      ⟨hb, rfl, rfl, hv, rfl, rfl⟩ hlen
    refine ⟨t, hfirst.trans hsend (Nat.zero_le _), htp, htv, ?_, ?_, ?_⟩
    · rw [State.sinkErr, hres]; rfl
    · rw [State.decErr, hres]; exact (refUnits_dec hlarge hscan hus).symm
    · rw [State.paramErr, hres]; rfl

/-- Settles O50: after acceptance the packets are sent, and FINISH completes. -/
theorem phasesRefinePacketize : Obligations.PhasesRefinePacketize := by
  intro s len maxsz ts ctx run hwf hidle hv hq hrun hlen
  have hexec : exec (.pkt len maxsz ts ctx) s = .next (afterPkt len maxsz ts ctx s) :=
    pktIsAcceptedAndChecked len maxsz ts ctx s hwf hidle
  obtain ⟨t, hsend, htp, htv, hsink, hdec, hparam⟩ :=
    sends_packetize (len := len) (maxsz := maxsz) (ts := ts) (ctx := ctx) hv hrun hlen
  have htb : t.busy = true := hsend.busy.trans (afterPkt_busy len maxsz ts ctx s)
  have hrun' : OwnRun (afterPkt len maxsz ts ctx s) (complete t) :=
    hsend.run.tail ⟨htb, .finish htp⟩
  obtain ⟨k, rest, hcore⟩ := hrun'.exists_core_run hq
  refine ⟨_, _, k, hexec, hcore, rfl, rfl, htv, hsend.received, hsend.answers, ?_,
    hsend.decErr.trans hdec, hsend.paramErr.trans hparam, hsend.frame.res, hsend.frame.buf⟩
  have herr := hsend.sinkErr
  rw [hsink, Bool.false_or] at herr
  exact herr

/-! ### A fragmented unit (R125 to R127) -/

/-- Byte 2 of fragment j of n, from that of the first (R117, R118). -/
def fragmentByte2 (first : Byte) (n j : Nat) : Byte :=
  if j + 1 = n then fu2SetEnd (if j = 0 then first else fu2ClearStart first)
  else if j = 0 then first else fu2ClearStart first

/-- Fragment j of n of a payload of rem bytes at off. -/
def fragmentOf (a : PktArgs) (mark : Bool) (flen : Nat) (fu : FuBytes) (off rem n j : Nat) :
    Packet :=
  a.packet (decide (j + 1 = n) && mark) (some { fu with b2 := fragmentByte2 fu.b2 n j })
    (off + j * flen) (if j + 1 = n then rem - j * flen else flen)

theorem fu2ClearStart_clearStart : ∀ x : Byte,
    fu2ClearStart (fu2ClearStart x) = fu2ClearStart x := by decide

/-- After a full fragment the rest is the fragments of the rest. -/
theorem fragmentOf_succ (a : PktArgs) (mark : Bool) (flen : Nat) (fu : FuBytes)
    (off rem n j : Nat) :
    fragmentOf a mark flen fu off rem (n + 1) (j + 1) =
      fragmentOf a mark flen { fu with b2 := fu2ClearStart fu.b2 } (off + flen) (rem - flen)
        n j := by
  have hoff : off + (j + 1) * flen = off + flen + j * flen := by rw [Nat.succ_mul]; omega
  have hrem : rem - (j + 1) * flen = rem - flen - j * flen := by rw [Nat.succ_mul]; omega
  have hclear : (if j = 0 then fu2ClearStart fu.b2 else fu2ClearStart (fu2ClearStart fu.b2)) =
      fu2ClearStart fu.b2 := by rw [fu2ClearStart_clearStart, ite_self]
  simp only [fragmentOf, fragmentByte2, Nat.add_right_cancel_iff, hoff, hrem, hclear,
    Nat.succ_ne_zero, if_false]

/-- The number of fragments of a payload of rem bytes: one more than of what a full one leaves. -/
theorem fragment_count_succ {flen rem : Nat} (hflen : 1 ≤ flen) (h : flen < rem) :
    (rem + flen - 1) / flen = (rem - flen + flen - 1) / flen + 1 := by
  rw [← Nat.add_div_right _ hflen]
  congr 1
  omega

theorem fragment_count_one {flen rem : Nat} (hrem : 1 ≤ rem) (h : rem ≤ flen) :
    (rem + flen - 1) / flen = 1 :=
  Nat.div_eq_of_lt_le (by omega) (by omega)

/-- The list of R106, fragment by fragment (R125 to R127). -/
theorem refFragments_eq_map (a : PktArgs) (mark : Bool) {flen : Nat} (hflen : 1 ≤ flen) (n : Nat)
    (fu : FuBytes) (off rem : Nat) (hn : rem ≤ n) (hrem : 1 ≤ rem) :
    refFragments a mark flen n fu off rem =
      (List.range ((rem + flen - 1) / flen)).map
        (fragmentOf a mark flen fu off rem ((rem + flen - 1) / flen)) := by
  induction n generalizing fu off rem with
  | zero => omega
  | succ n ih =>
    rcases Nat.lt_or_ge flen rem with hmore | hlast
    · rw [refFragments, if_pos hmore, ih _ _ (rem - flen) (by omega) (by omega),
        fragment_count_succ hflen hmore, List.range_succ_eq_map, List.map_cons, List.map_map]
      have hpos : 1 ≤ (rem - flen + flen - 1) / flen :=
        (Nat.le_div_iff_mul_le hflen).2 (by omega)
      generalize (rem - flen + flen - 1) / flen = k at hpos
      have hk : ¬ 0 + 1 = k + 1 := by omega
      have hhead : fragmentOf a mark flen fu off rem (k + 1) 0 =
          a.packet false (some fu) off flen := by
        simp only [fragmentOf, fragmentByte2, if_neg hk, decide_eq_false hk, Bool.false_and,
          Nat.zero_mul, Nat.add_zero, if_true]
      rw [hhead]
      refine congrArg _ (List.map_congr_left fun j _ => ?_)
      exact (fragmentOf_succ a mark flen fu off rem k j).symm
    · rw [refFragments_of_le a mark hlast, fragment_count_one hrem hlast]
      simp [fragmentOf, fragmentByte2]

theorem payloadFrom_add (m : Memory) (p i j : Nat) :
    payloadFrom m p (i + j) = payloadFrom m p i ++ payloadFrom m (p + i) j := by
  induction i generalizing p with
  | zero => rw [Nat.zero_add]; rfl
  | succ i ih =>
    rw [show i + 1 + j = i + j + 1 by omega, payloadFrom, payloadFrom, ih (p + 1),
      show p + 1 + i = p + (i + 1) by omega, List.cons_append]

/-- The payloads of the fragments, put together, are the payload (R127). -/
theorem refFragments_payload (m : Memory) (a : PktArgs) (mark : Bool) (flen n : Nat) (fu : FuBytes)
    (off rem : Nat) :
    ((refFragments a mark flen n fu off rem).map (Packet.payload m)).flatten =
      payloadFrom m off rem := by
  induction n generalizing fu off rem with
  | zero => exact List.append_nil _
  | succ n ih =>
    rw [refFragments]
    split_ifs with hmore
    · rw [List.map_cons, List.flatten_cons, ih]
      obtain ⟨d, rfl⟩ : ∃ d, rem = flen + d := ⟨rem - flen, by omega⟩
      rw [payloadFrom_add, Nat.add_sub_cancel_left]
      rfl
    · exact List.append_nil _

/-- The fragment of the statement is the fragment of the list of R106. -/
theorem fragmentPacket_eq (s : State) (b0 b1 : Byte) (j : Nat) :
    fragmentPacket s b0 b1 j =
      fragmentOf s.pktArgs s.work.mark (s.opr.maxsz - 3) (firstFuBytes s.fuType b0 b1)
        (s.work.cur + 2) (s.work.ulen - 2) (fragmentCount s.work.ulen s.opr.maxsz) j := by
  have hbyte2 : ∀ (t : BitVec 6) (n : Nat), fragmentByte2 (fuByte2 1 0 t) n j =
      fuByte2 (BitVec.ofBool (decide (j = 0))) (BitVec.ofBool (decide (j + 1 = n))) t := by
    intro t n
    unfold fragmentByte2
    by_cases hn : j + 1 = n
    · rw [if_pos hn, decide_eq_true hn, fu2ClearStart_fuByte2]
      by_cases hj : j = 0
      · rw [if_pos hj, decide_eq_true hj, fu2SetEnd_fuByte2]; rfl
      · rw [if_neg hj, decide_eq_false hj, fu2SetEnd_fuByte2]; rfl
    · rw [if_neg hn, decide_eq_false hn, fu2ClearStart_fuByte2]
      by_cases hj : j = 0
      · rw [if_pos hj, decide_eq_true hj]; rfl
      · rw [if_neg hj, decide_eq_false hj]; rfl
  rw [fragmentPacket, fragmentOf, firstFuBytes_eq, hbyte2]
  rfl

/-- Settles O49: the fragments of R106 are the packets of the statement, and the phases send them.
-/
theorem fragmentedUnitReassembles : Obligations.FragmentedUnitReassembles := by
  intro s b0 b1 n ps hs hq hp hbound h0 h1 hn hlen hps
  obtain ⟨hunit, hbig⟩ := hs.fragInit hp
  obtain ⟨hlong, hin⟩ := hs.fragInit_long hp
  have hmax := hunit.maxsz
  have hb : s.busy = true := by rw [hs.busy, hp]; rfl
  have hv := hs.pk_valid_eq_false hp nofun nofun nofun
  have hlist : refFragments s.pktArgs s.work.mark (s.opr.maxsz - 3) (s.work.ulen - 2)
      (firstFuBytes s.fuType b0 b1) (s.work.cur + 2) (s.work.ulen - 2) = ps := by
    rw [hps, hn, refFragments_eq_map _ _ (by omega) _ _ _ _ (le_refl _) (by omega)]
    exact List.map_congr_left fun j _ => (fragmentPacket_eq s b0 b1 j).symm
  have hcount : ps.length = n := by rw [hps, List.length_map, List.length_range]
  have htwo : 2 ≤ n := by
    rw [hn, fragmentCount, Nat.le_div_iff_mul_le (by omega)]
    omega
  obtain ⟨t, hsend, htp, htv, -⟩ := sends_fragmented hb hp hv hmax (by omega)
    (memReadByte_ok (by omega) h0) (memReadByte_ok (by omega) h1)
    (by rw [hlist, hcount]; exact hlen)
  rw [hlist] at hsend
  obtain ⟨k, rest, hcore⟩ := hsend.run.exists_core_run hq
  refine ⟨htwo, ?_, k, _, hcore, htp, htv, ?_⟩
  · rw [← hlist]
    exact refFragments_payload _ _ _ _ _ _ _ _
  · rw [← hcount]
    exact hsend.received

/-! ### Every operation comes to an end (R130, R28, R174) -/

/-- A bound on the answers the operation still needs. -/
def answersLeft (s : State) : Nat :=
  match s.ph with
  | .idle => 0
  | .first => s.opr.len
  | .skip => s.opr.len - s.work.r
  | .next => s.opr.len - s.work.cur + 1
  | .single => s.opr.len - s.work.r1 + 1
  | .fragInit => s.opr.len - s.work.r1 + s.work.ulen
  | .fragLoop => s.opr.len - s.work.r1 + s.work.rem
  | .fragLast => s.opr.len - s.work.r1 + 1
  | .adv => s.opr.len - s.work.r1
  | .finish => 0

/-- A bound on the own steps the operation still takes while its packets are answered. -/
def stepsLeft (s : State) : Nat :=
  match s.ph with
  | .idle => 0
  | .first => 6 * s.opr.len + 3
  | .skip => 6 * (s.opr.len - s.work.r) + 2
  | .next => 6 * (s.opr.len - s.work.cur) + 10
  | .single => 6 * (s.opr.len - s.work.r1) + 5 - s.pk.valid.toNat
  | .fragInit => 6 * (s.opr.len - s.work.r1) + 3 * s.work.ulen + 6
  | .fragLoop => 6 * (s.opr.len - s.work.r1) + 3 * s.work.rem + 6 - s.pk.valid.toNat
  | .fragLast => 6 * (s.opr.len - s.work.r1) + 5 - s.pk.valid.toNat
  | .adv => 6 * (s.opr.len - s.work.r1) + 3
  | .finish => 1

/-- A move of a busy block whose packet will be answered: it brings the end nearer, and what it
takes from the sink was counted. -/
structure Progress (s t : State) : Prop where
  steps   : stepsLeft t < stepsLeft s
  answers : answersLeft t + s.sink.answers.length ≤ answersLeft s + t.sink.answers.length

theorem BlockMove.progress {s t : State} (h : BlockMove s t) (hs : Inv s) (hb : s.busy = true)
    (ha : s.pk.valid = true → s.sink.answers ≠ []) : Progress s t := by
  cases h with
  | idle hp => rw [hs.busy, hp] at hb; cases hb
  | stall hp hv hnil => exact absurd hnil (ha hv)
  | @first p hp hscan =>
    have hle := (scan_ok hscan).le_len
    by_cases hlt : p < s.opr.len <;> constructor <;>
      simp [stepsLeft, answersLeft, hp, hlt]
  | skip hp hstart =>
    obtain ⟨-, hmatch⟩ := hs.skip hp
    obtain ⟨hge, hle, -, -⟩ := unitStart_ok hmatch.add_three_le hstart
    constructor <;> simp [stepsLeft, answersLeft, hp] <;> omega
  | @next p hp hscan =>
    obtain ⟨-, -, hcur, -⟩ := hs.next hp
    have hge := (scan_ok hscan).pos_le hcur
    have hle := (scan_ok hscan).le_len
    have hv := hs.pk_valid_eq_false hp nofun nofun nofun
    by_cases hsmall : p - s.work.cur ≤ s.opr.maxsz <;> constructor <;>
      simp [stepsLeft, answersLeft, hp, hsmall, hv] <;> omega
  | singlePut hp hv => constructor <;> simp [stepsLeft, answersLeft, hp, hv]
  | singleTake hp hv hcons =>
    constructor <;> simp [stepsLeft, answersLeft, hp, hv, hcons]
    omega
  | shortUnit hp hshort => have := (hs.fragInit_long hp).1; omega
  | fragInit hp hlong =>
    constructor <;> simp [stepsLeft, answersLeft, hp, fragHeader]
    omega
  | fragPut hp hv hmore => constructor <;> simp [stepsLeft, answersLeft, hp, hv]
  | fragTake hp hv hcons =>
    obtain ⟨hfrag, -, -, hport⟩ := hs.fragLoop hp
    have hmore := (hport hv).1
    have hflen := hfrag.flen
    have hmax := hfrag.base.maxsz
    constructor <;> simp [stepsLeft, answersLeft, hp, hv, hcons] <;> omega
  | fragLeave hp hv hlast =>
    have hleft := (hs.fragLoop hp).1.left
    constructor <;> simp [stepsLeft, answersLeft, hp, hv]
    omega
  | lastPut hp hv => constructor <;> simp [stepsLeft, answersLeft, presentLast, hp, hv]
  | lastTake hp hv hcons =>
    constructor <;> simp [stepsLeft, answersLeft, hp, hv, hcons]
    omega
  | adv hp =>
    by_cases hlt : s.work.r1 < s.opr.len <;> constructor <;>
      simp [stepsLeft, answersLeft, hp, hlt]
  | finish hp => constructor <;> simp [stepsLeft, answersLeft, hp]

/-- A packet on the port needs an answer. -/
theorem Inv.answersLeft_pos {s : State} (h : Inv s) (hv : s.pk.valid = true) :
    1 ≤ answersLeft s := by
  rcases h.port_cases hv with ⟨hp, -⟩ | ⟨hp, hfrag, -⟩ | ⟨hp, -⟩
  · simp only [answersLeft, hp]
    omega
  · have hleft := hfrag.left
    simp only [answersLeft, hp]
    omega
  · simp only [answersLeft, hp]
    omega

/-- While its packets are answered an operation over a bound buffer completes. -/
theorem Inv.completes {s : State} (hs : Inv s) (hb : s.busy = true)
    (hbound : s.buf.boundTo s.opr.len) (hlen : answersLeft s ≤ s.sink.answers.length) :
    ∃ t, OwnRun s t ∧ t.ph = .idle ∧ t.done = true ∧ t.busy = false ∧ t.pk.valid = false := by
  induction hn : stepsLeft s using Nat.strong_induction_on generalizing s with
  | _ n ih =>
    obtain ⟨t, hmove⟩ := hs.blockMove_of_boundTo hbound
    have hans : s.pk.valid = true → s.sink.answers ≠ [] := fun hv hnil => by
      have hpos := hs.answersLeft_pos hv
      rw [hnil] at hlen
      exact absurd (hpos.trans hlen) (by decide)
    obtain ⟨hsteps, hanswers⟩ := hmove.progress hs hb hans
    have hrun : OwnRun s t := .single ⟨hb, hmove⟩
    have hinv := hmove.inv hs
    rcases hmove.status_cases with ⟨-, rfl⟩ | ⟨hst, -⟩
    · exact ⟨_, hrun, rfl, complete_done s, complete_busy s,
        hinv.pk_valid_eq_false rfl nofun nofun nofun⟩
    · have hframe := hmove.frame
      obtain ⟨u, hrest, hu⟩ := ih (stepsLeft t) (hn ▸ hsteps) hinv ((busy_of_status hst).trans hb)
        (by rw [hframe.buf, hframe.opr]; exact hbound) (by omega) rfl
      exact ⟨u, hrun.trans hrest, hu⟩

/-- In mid-operation at most LEN answers are left to be needed: every packet but one has a byte of
the buffer, or a start code, of its own (R174). -/
theorem Inv.answersLeft_le {s : State} (h : Inv s) : answersLeft s ≤ s.opr.len := by
  cases hp : s.ph with
  | idle => simp only [answersLeft, hp]; omega
  | first => simp only [answersLeft, hp]; omega
  | skip => simp only [answersLeft, hp]; omega
  | next =>
    obtain ⟨-, hstart, hcur, -⟩ := h.next hp
    simp only [answersLeft, hp]
    omega
  | single =>
    have hunit := (h.single hp).1
    have hstart := hunit.start
    have hstop := hunit.stop
    have hr1 := hunit.r1_le
    simp only [answersLeft, hp]
    omega
  | fragInit =>
    have hunit := (h.fragInit hp).1
    have hulen := hunit.ulen
    have hr1 := hunit.r1_le
    simp only [answersLeft, hp]
    omega
  | fragLoop =>
    have hfrag := (h.fragLoop hp).1
    have htail := hfrag.tail
    have hr1 := hfrag.base.r1_le
    simp only [answersLeft, hp]
    omega
  | fragLast =>
    have hunit := (h.fragLast hp).1.base
    have hstart := hunit.start
    have hstop := hunit.stop
    have hr1 := hunit.r1_le
    simp only [answersLeft, hp]
    omega
  | adv => simp only [answersLeft, hp]; omega
  | finish => simp only [answersLeft, hp]; omega

/-- Settles O51: the answers at hand cover those left to be needed. -/
theorem pktAlwaysCompletes : Obligations.PktAlwaysCompletes := by
  intro s hs hb hq hbound hlen
  have hle := hs.answersLeft_le
  obtain ⟨t, hrun, hp, hdone, hbusy, hv⟩ := hs.completes hb hbound (by omega)
  obtain ⟨k, rest, hcore⟩ := hrun.exists_core_run hq
  exact ⟨k, _, hcore, hp, hdone, hbusy, hv⟩

end Sys2Proof.Machine


/-! PROOF. What does not matter: the values of the sink's answers (R122), and what earlier
operations left (R13). -/

namespace Sys2Proof.Machine

/-- A run that answers a next state is a step and the rest of the run. -/
theorem core_run_succ_next {k : Nat} {s u : State} (h : core.run (k + 1) s = .next u) :
    ∃ t, step s = .next t ∧ core.run k t = .next u := by
  cases hstep : step s with
  | next t =>
    rw [core_run_succ hstep] at h
    exact ⟨t, rfl, h⟩
  | fault r =>
    have hcore : core.step s = .fault r := hstep
    simp only [Host.Core.run, hcore] at h
    cases h
  | refused r =>
    have hcore : core.step s = .refused r := hstep
    simp only [Host.Core.run, hcore] at h
    cases h

/-- What a command does to an idle block, read the other way. -/
theorem CommandEffect.exec_eq {i : Instr} {s t : State} (h : CommandEffect s i t)
    (hb : s.busy = false) : exec i s = .next t := by
  cases h with
  | scan h => rw [exec_scan_idle hb, h]; rfl
  | sclen h => rw [exec_sclen_idle hb, h]; rfl
  | hdec b0 b1 => exact exec_hdec_idle hb b0 b1
  | henc f t l d => exact exec_henc_idle hb f t l d
  | iskey t => exact exec_iskey_idle hb t
  | pkt len maxsz ts ctx => exact exec_pkt_idle hb len maxsz ts ctx
  | reserved6 => rw [exec_reserved6, onCommandPort_idle hb]
  | reserved7 => rw [exec_reserved7, onCommandPort_idle hb]

/-! ### The values of the sink's answers (R122) -/

/-- The state with another RESULT, another PK_S and another sink. -/
def recolor (x : BitVec 3) (y : Nat) (k : Sink) (s : State) : State :=
  { s with result := x, pk := { s.pk with s := y }, sink := k }

/-- Two sinks that differ in the values of the answers alone. -/
def SinkAlike (k k' : Sink) : Prop :=
  k'.answers.map (fun _ => 0) = k.answers.map (fun _ => 0) ∧
    k'.received.map (fun p => (p.1, 0)) = k.received.map (fun p => (p.1, 0))

theorem SinkAlike.refl (k : Sink) : SinkAlike k k := ⟨rfl, rfl⟩

theorem blindView_recolor {x : BitVec 3} {y : Nat} {k : Sink} {s : State}
    (hx : x &&& 6#3 = s.result &&& 6#3) (hk : SinkAlike s.sink k) :
    blindView s = blindView (recolor x y k s) := by
  obtain ⟨hanswers, hreceived⟩ := hk
  simp only [blindView, recolor, hx, hanswers, hreceived]

/-- States that look the same but for the answers' values differ in RESULT, PK_S and the sink alone.
-/
theorem eq_recolor_of_blindView {s t : State} (h : blindView s = blindView t) :
    ∃ x y k, t = recolor x y k s ∧ x &&& 6#3 = s.result &&& 6#3 ∧ SinkAlike s.sink k := by
  obtain ⟨opr, res, written, status, result, ph, work, pk, widths, fuType, buf, host, sink⟩ := s
  obtain ⟨opr', res', written', status', result', ph', work', pk', widths', fuType', buf', host',
    sink'⟩ := t
  obtain ⟨valid, m, ts, fuv, fu0, fu1, fu2, off, len, ctx, y⟩ := pk
  obtain ⟨valid', m', ts', fuv', fu0', fu1', fu2', off', len', ctx', y'⟩ := pk'
  simp only [blindView, State.mk.injEq, PacketPort.mk.injEq, Sink.mk.injEq] at h
  obtain ⟨rfl, rfl, rfl, rfl, hresult, rfl, rfl,
    ⟨rfl, rfl, rfl, rfl, rfl, rfl, rfl, rfl, rfl, rfl, -⟩, rfl, rfl, rfl, rfl, hanswers,
    hreceived⟩ := h
  exact ⟨result', y', sink', rfl, hresult.symm, hanswers.symm, hreceived.symm⟩

theorem SinkAlike.exists_cons {k k' : Sink} (h : SinkAlike k k') {a : Nat} {rest : List Nat}
    (ha : k.answers = a :: rest) :
    ∃ a' rest', k'.answers = a' :: rest' ∧ rest'.map (fun _ => 0) = rest.map (fun _ => 0) := by
  have hanswers := h.1
  rw [ha] at hanswers
  cases hk : k'.answers with
  | nil => rw [hk] at hanswers; cases hanswers
  | cons a' rest' =>
    rw [hk] at hanswers
    exact ⟨a', rest', rfl, (List.cons.inj hanswers).2⟩

theorem SinkAlike.nil {k k' : Sink} (h : SinkAlike k k') (ha : k.answers = []) :
    k'.answers = [] := by
  have hanswers := h.1
  rw [ha] at hanswers
  exact List.map_eq_nil_iff.1 hanswers

/-- After an answer is taken, whatever it was, the sinks still differ in values alone. -/
theorem SinkAlike.answered {k k' : Sink} (h : SinkAlike k k') {rest rest' : List Nat}
    (hrest : rest'.map (fun _ => 0) = rest.map (fun _ => 0)) (p : Packet) (a a' : Nat) :
    SinkAlike ⟨rest, k.received ++ [(p, a)]⟩ ⟨rest', k'.received ++ [(p, a')]⟩ := by
  refine ⟨hrest, ?_⟩
  rw [List.map_append, List.map_append, h.2]
  rfl

/-- An answer only touches the bit of RESULT that is blinded. -/
theorem result_and_six (x : BitVec 3) (a : Nat) :
    (x ||| (if sinkFailed a then sinkCode else 0)) &&& 6#3 = x &&& 6#3 := by
  have hone : ∀ x : BitVec 3, (x ||| sinkCode) &&& 6#3 = x &&& 6#3 := by decide
  have hzero : ∀ x : BitVec 3, (x ||| 0) &&& 6#3 = x &&& 6#3 := by decide
  cases sinkFailed a with
  | true => exact hone x
  | false => exact hzero x

section Blind

variable {x : BitVec 3} {y : Nat} {k : Sink} {s t : State}

/-- The block once it has taken the answer that the other sink has ready: it differs in RESULT, PK_S
and the sink alone. -/
theorem exists_answered_recolor (hx : x &&& 6#3 = s.result &&& 6#3) (hk : SinkAlike s.sink k)
    {a : Nat} {rest : List Nat} (ha : s.sink.answers = a :: rest) :
    ∃ a' rest' x' y' k', k.answers = a' :: rest' ∧
      answered ((recolor x y k s).widths.answer a') rest' (recolor x y k s) =
        recolor x' y' k' (answered (s.widths.answer a) rest s) ∧
      x' &&& 6#3 = (answered (s.widths.answer a) rest s).result &&& 6#3 ∧
      SinkAlike (answered (s.widths.answer a) rest s).sink k' := by
  obtain ⟨a', rest', ha', hrest⟩ := hk.exists_cons ha
  refine ⟨a', rest', x ||| (if sinkFailed (s.widths.answer a') then sinkCode else 0),
    s.widths.answer a', ⟨rest', k.received ++ [(packetView s.pk, s.widths.answer a')]⟩, ha', rfl,
    ?_, hk.answered hrest _ _ _⟩
  rw [result_and_six, hx, answered_result, result_and_six]

/-- The block makes the same move whatever the answers' values are. -/
theorem BlockMove.recolor (h : BlockMove s t) (hx : x &&& 6#3 = s.result &&& 6#3)
    (hk : SinkAlike s.sink k) :
    ∃ t', BlockMove (recolor x y k s) t' ∧ blindView t = blindView t' := by
  have same : ∀ {u : State}, u.result = s.result → u.sink = s.sink →
      blindView u = blindView (Machine.recolor x y k u) := by
    intro u hr hsink
    exact blindView_recolor (by rw [hr]; exact hx) (by rw [hsink]; exact hk)
  cases h with
  | idle hp => exact ⟨_, .idle hp, same rfl rfl⟩
  | first hp hscan =>
    exact ⟨_, .first (s := Machine.recolor x y k s) hp hscan, same rfl rfl⟩
  | skip hp hstart => exact ⟨_, .skip (s := Machine.recolor x y k s) hp hstart, same rfl rfl⟩
  | next hp hscan => exact ⟨_, .next (s := Machine.recolor x y k s) hp hscan, same rfl rfl⟩
  | stall hp hv ha => exact ⟨_, .stall hp hv (hk.nil ha), same rfl rfl⟩
  | singlePut hp hv =>
    exact ⟨_, .singlePut (s := Machine.recolor x y k s) hp hv, same rfl rfl⟩
  | fragInit hp hlong h0 h1 =>
    exact ⟨_, .fragInit (s := Machine.recolor x y k s) hp hlong h0 h1, same rfl rfl⟩
  | fragPut hp hv hmore =>
    exact ⟨_, .fragPut (s := Machine.recolor x y k s) hp hv hmore, same rfl rfl⟩
  | fragLeave hp hv hlast =>
    exact ⟨_, .fragLeave (s := Machine.recolor x y k s) hp hv hlast, same rfl rfl⟩
  | lastPut hp hv => exact ⟨_, .lastPut (s := Machine.recolor x y k s) hp hv, same rfl rfl⟩
  | adv hp => exact ⟨_, .adv (s := Machine.recolor x y k s) hp, same rfl rfl⟩
  | finish hp => exact ⟨_, .finish (s := Machine.recolor x y k s) hp, same rfl rfl⟩
  | shortUnit hp hshort =>
    refine ⟨_, .shortUnit (s := Machine.recolor x y k s) hp hshort,
      blindView_recolor (x := x ||| decCode) (y := y) ?_ hk⟩
    have hor : ∀ x z : BitVec 3, x &&& 6#3 = z &&& 6#3 →
        (x ||| decCode) &&& 6#3 = (z ||| decCode) &&& 6#3 := by decide
    exact hor _ _ hx
  | singleTake hp hv ha =>
    obtain ⟨a', rest', x', y', k', ha', heq, hx', hk'⟩ := exists_answered_recolor (y := y) hx hk ha
    refine ⟨_, .singleTake (s := Machine.recolor x y k s) hp hv ha', ?_⟩
    rw [heq]
    exact blindView_recolor hx' hk'
  | fragTake hp hv ha =>
    obtain ⟨a', rest', x', y', k', ha', heq, hx', hk'⟩ := exists_answered_recolor (y := y) hx hk ha
    refine ⟨_, .fragTake (s := Machine.recolor x y k s) hp hv ha', ?_⟩
    rw [heq]
    exact blindView_recolor hx' hk'
  | lastTake hp hv ha =>
    obtain ⟨a', rest', x', y', k', ha', heq, hx', hk'⟩ := exists_answered_recolor (y := y) hx hk ha
    refine ⟨_, .lastTake (s := Machine.recolor x y k s) hp hv ha', ?_⟩
    rw [heq]
    exact blindView_recolor hx' hk'

/-- An idle block takes a command alike whatever the answers' values were (R19: RESULT is cleared).
-/
theorem CommandEffect.recolor {i : Instr} (h : CommandEffect s i t) (hk : SinkAlike s.sink k) :
    ∃ t', CommandEffect (recolor x y k s) i t' ∧ blindView t = blindView t' := by
  have same : ∀ {u : State}, u.sink = s.sink →
      blindView u = blindView (Machine.recolor u.result y k u) := by
    intro u hsink
    exact blindView_recolor rfl (by rw [hsink]; exact hk)
  cases h with
  | scan h => exact ⟨_, .scan (s := Machine.recolor x y k s) h, same rfl⟩
  | sclen h => exact ⟨_, .sclen (s := Machine.recolor x y k s) h, same rfl⟩
  | hdec b0 b1 => exact ⟨_, .hdec b0 b1, same rfl⟩
  | henc f ty l d => exact ⟨_, .henc (s := Machine.recolor x y k s) f ty l d, same rfl⟩
  | iskey ty => exact ⟨_, .iskey (s := Machine.recolor x y k s) ty, same rfl⟩
  | pkt len maxsz ts ctx =>
    refine ⟨_, .pkt (s := Machine.recolor x y k s) len maxsz ts ctx, ?_⟩
    rw [checkMaxsz_accept, checkMaxsz_accept]
    exact same rfl
  | reserved6 => exact ⟨_, .reserved6, same rfl⟩
  | reserved7 => exact ⟨_, .reserved7, same rfl⟩

/-- The block's own step, on the two states. -/
theorem blockStep_recolor (hx : x &&& 6#3 = s.result &&& 6#3) (hk : SinkAlike s.sink k)
    (h : blockStep s = .next t) :
    ∃ t', blockStep (recolor x y k s) = .next t' ∧ blindView t = blindView t' := by
  obtain ⟨t', hmove, hview⟩ := (blockMove_of_blockStep h).recolor (y := y) hx hk
  exact ⟨t', hmove.blockStep_eq, hview⟩

/-- A store of the host, on the two states. -/
theorem hostStore_recolor (hx : x &&& 6#3 = s.result &&& 6#3) (hk : SinkAlike s.sink k)
    {base : Memory} {a : Nat} {bytes : List Byte} (h : hostStore base a bytes s = .next t) :
    ∃ t', hostStore base a bytes (recolor x y k s) = .next t' ∧ blindView t = blindView t' := by
  obtain ⟨hb, hfit, rfl⟩ := hostStore_next h
  exact ⟨_, hostStore_idle (s := recolor x y k s) hb hfit, blindView_recolor hx hk⟩

/-- One step, on the two states. -/
theorem step_recolor (hx : x &&& 6#3 = s.result &&& 6#3) (hk : SinkAlike s.sink k)
    (h : step s = .next t) :
    ∃ t', step (recolor x y k s) = .next t' ∧ blindView t = blindView t' := by
  rcases hh : s.host with _ | ⟨e, rest⟩
  · rw [step_of_host_nil hh] at h
    rw [step_of_host_nil (s := recolor x y k s) hh]
    exact blockStep_recolor hx hk h
  cases e with
  | wait =>
    have hown : ∀ u : State, u.host = .wait :: rest → TakesOwnStep u (u.withHost rest) := by
      intro u hu
      rw [TakesOwnStep, hu]
    rw [step_of_takesOwnStep (hown _ hh)] at h
    rw [step_of_takesOwnStep (hown (recolor x y k s) hh)]
    exact blockStep_recolor (s := s.withHost rest) hx hk h
  | command c hold =>
    cases hb : s.busy with
    | true =>
      rw [step_of_takesOwnStep (takesOwnStep_of_command hb hh)] at h
      rw [step_of_takesOwnStep (takesOwnStep_of_command (s := recolor x y k s) hb hh)]
      cases hold with
      | true => exact blockStep_recolor hx hk h
      | false => exact blockStep_recolor (s := s.withHost rest) hx hk h
    | false =>
      rw [step_command hh, portStep_idle hb] at h
      rw [step_command (s := recolor x y k s) hh, portStep_idle (s := recolor x y k s) hb]
      cases hi : isCommand (decodeCommand c) with
      | true =>
        obtain ⟨t', heff, hview⟩ :=
          (commandEffect_of_exec (s := s.withHost rest) hi hb h).recolor (x := x) (y := y) hk
        exact ⟨t', heff.exec_eq hb, hview⟩
      | false =>
        obtain ⟨bytes, hbytes⟩ := encode_of_not_isCommand hi
        rw [exec_of_encode_stream hbytes] at h ⊢
        exact hostStore_recolor (s := s.withHost rest) hx hk h
  | stream bytes =>
    rw [step_stream hh, streamStep_eq_hostLay] at h
    rw [step_stream (s := recolor x y k s) hh, streamStep_eq_hostLay]
    exact hostStore_recolor (s := s.withHost rest) hx hk h
  | bind bytes =>
    rw [step_bind hh] at h
    rw [step_bind (s := recolor x y k s) hh]
    exact hostStore_recolor (s := s.withHost rest) hx hk h
  | store a bytes =>
    rw [step_store hh] at h
    rw [step_store (s := recolor x y k s) hh]
    exact hostStore_recolor (s := s.withHost rest) hx hk h
  | reset =>
    rw [step_reset hh] at h
    rw [step_reset (s := recolor x y k s) hh]
    cases h
    exact ⟨_, rfl, blindView_recolor (x := 0) (y := 0) rfl hk⟩

end Blind

/-- Settles O52: step by step. -/
theorem packetsDoNotDependOnAnswers : Obligations.PacketsDoNotDependOnAnswers := by
  intro k
  induction k with
  | zero =>
    intro s t s' hview h
    cases h
    exact ⟨t, rfl, hview⟩
  | succ k ih =>
    intro s t s' hview h
    obtain ⟨u, hstep, hrun⟩ := core_run_succ_next h
    obtain ⟨x, y, sink, rfl, hx, hk⟩ := eq_recolor_of_blindView hview
    obtain ⟨u', hstep', hview'⟩ := step_recolor (y := y) hx hk hstep
    obtain ⟨t', hrun', hend⟩ := ih u u' s' hview' hrun
    exact ⟨t', (core_run_succ hstep').trans hrun', hend⟩

end Sys2Proof.Machine


namespace Sys2Proof.Machine

/-! ### What earlier operations left (R13) -/

/-- One command on two idle blocks with the same buffer and the same widths (R13). -/
theorem CommandEffect.alike {i : Instr} {s s' t : State} (h : CommandEffect s i t)
    (hbuf : s.buf = s'.buf) (hw : s.widths = s'.widths) :
    ∃ t', CommandEffect s' i t' ∧ t'.status = t.status ∧ t'.result = t.result ∧ t'.ph = t.ph ∧
      ∀ r : ResultReg, r ∈ ownRegs i → regValue t'.res r = regValue t.res r := by
  cases h with
  | scan h =>
    rw [hbuf, hw] at h
    refine ⟨_, .scan h, rfl, rfl, rfl, fun r hr => ?_⟩
    rw [List.mem_singleton.1 hr]
    rfl
  | sclen h =>
    rw [hbuf, hw] at h
    refine ⟨_, .sclen h, rfl, rfl, rfl, fun r hr => ?_⟩
    rw [List.mem_singleton.1 hr]
    rfl
  | hdec b0 b1 =>
    refine ⟨_, .hdec b0 b1, rfl, rfl, rfl, fun r hr => ?_⟩
    simp only [ownRegs, List.mem_cons, List.not_mem_nil, or_false] at hr
    rcases hr with rfl | rfl | rfl | rfl <;> rfl
  | henc f ty l d =>
    rw [hw]
    refine ⟨_, .henc f ty l d, rfl, rfl, rfl, fun r hr => ?_⟩
    simp only [ownRegs, List.mem_cons, List.not_mem_nil, or_false] at hr
    rcases hr with rfl | rfl <;> rfl
  | iskey ty =>
    rw [hw]
    refine ⟨_, .iskey ty, rfl, rfl, rfl, fun r hr => ?_⟩
    rw [List.mem_singleton.1 hr]
    rfl
  | pkt len maxsz ts ctx =>
    refine ⟨_, .pkt len maxsz ts ctx, ?_, ?_, ?_, fun r hr => absurd hr List.not_mem_nil⟩ <;>
      rw [checkMaxsz_accept, checkMaxsz_accept, hw] <;> rfl
  | reserved6 => exact ⟨_, .reserved6, rfl, rfl, rfl, fun r hr => absurd hr List.not_mem_nil⟩
  | reserved7 => exact ⟨_, .reserved7, rfl, rfl, rfl, fun r hr => absurd hr List.not_mem_nil⟩

/-- The registers of the unit being sent (R111). -/
structure UnitAlike (w w' : Working) : Prop where
  cur  : w'.cur = w.cur
  r1   : w'.r1 = w.r1
  ulen : w'.ulen = w.ulen
  mark : w'.mark = w.mark

/-- The registers of the fragments being sent (R114, R116). -/
structure FragAlike (w w' : Working) : Prop where
  r1   : w'.r1 = w.r1
  mark : w'.mark = w.mark
  flen : w'.flen = w.flen
  fu0  : w'.fu0 = w.fu0
  fu1  : w'.fu1 = w.fu1
  fu2  : w'.fu2 = w.fu2
  off  : w'.off = w.off
  rem  : w'.rem = w.rem

/-- The working registers a phase goes on to read hold the same values: each was written in this
operation (R21, R109 to R119). -/
def LiveAlike (p : Phase) (w w' : Working) : Prop :=
  match p with
  | .idle => True
  | .first => True
  | .skip => w'.r = w.r
  | .next => w'.cur = w.cur
  | .single => UnitAlike w w'
  | .fragInit => UnitAlike w w'
  | .fragLoop => FragAlike w w'
  | .fragLast => FragAlike w w'
  | .adv => w'.r1 = w.r1
  | .finish => True

/-- Two blocks at the same place of the same operation, whatever earlier operations left. -/
structure SameCourse (s s' : State) : Prop where
  status  : s'.status = s.status
  result  : s'.result = s.result
  ph      : s'.ph = s.ph
  buf     : s'.buf = s.buf
  widths  : s'.widths = s.widths
  args    : s'.pktArgs = s.pktArgs
  answers : s'.sink.answers = s.sink.answers
  port    : presented s' = presented s
  live    : LiveAlike s.ph s.work s'.work

section Course

variable {s s' t : State}

theorem SameCourse.fields (h : SameCourse s s') :
    s'.opr.len = s.opr.len ∧ s'.opr.maxsz = s.opr.maxsz ∧ s'.fuType = s.fuType :=
  ⟨congrArg PktArgs.len h.args, congrArg PktArgs.maxsz h.args, congrArg PktArgs.fuType h.args⟩

theorem presented_isSome (s : State) : (presented s).isSome = s.pk.valid := by
  unfold presented
  cases s.pk.valid <;> rfl

theorem presented_of_valid (h : s.pk.valid = true) : presented s = some (packetView s.pk) :=
  if_pos h

theorem presented_of_not_valid (h : s.pk.valid = false) : presented s = none :=
  if_neg (by rw [h]; decide)

theorem presented_present (m : Bool) (fu : Option FuBytes) (off n : Nat) (s : State) :
    presented (present m fu off n s) = some (s.pktArgs.packet m fu off n) := by
  rw [presented_of_valid (present_valid s m fu off n), present_view]
  rfl

theorem SameCourse.valid (h : SameCourse s s') : s'.pk.valid = s.pk.valid := by
  rw [← presented_isSome, ← presented_isSome, h.port]

theorem SameCourse.view (h : SameCourse s s') (hv : s.pk.valid = true) :
    packetView s'.pk = packetView s.pk := by
  have hport := h.port
  rw [presented_of_valid hv, presented_of_valid (h.valid.trans hv)] at hport
  exact Option.some.inj hport

/-- The second block can follow the first one's step, and both send the same. -/
def Follows (s s' t : State) : Prop :=
  ∃ t' sent, BlockMove s' t' ∧ SameCourse t t' ∧ t.sink.received = s.sink.received ++ sent ∧
    t'.sink.received = s'.sink.received ++ sent

/-- A move that sends nothing. -/
theorem Follows.silent {t' : State} (ht : BlockMove s' t') (h : SameCourse t t')
    (hs : t.sink = s.sink) (hs' : t'.sink = s'.sink) : Follows s s' t :=
  ⟨t', [], ht, h, by rw [hs, List.append_nil], by rw [hs', List.append_nil]⟩

/-- A move that takes an answer: the same packet is answered alike. -/
theorem Follows.taken (h0 : SameCourse s s') (hv : s.pk.valid = true) {t' : State} {a : Nat}
    {rest : List Nat} (ht : BlockMove s' t') (h : SameCourse t t')
    (hs : t.sink = (answered (s.widths.answer a) rest s).sink)
    (hs' : t'.sink = (answered (s'.widths.answer a) rest s').sink) : Follows s s' t := by
  refine ⟨t', [(packetView s.pk, s.widths.answer a)], ht, h, by rw [hs]; rfl, ?_⟩
  rw [hs', ← h0.view hv, ← h0.widths]
  rfl

theorem SameCourse.answered (h : SameCourse s s') (a : Nat) (rest : List Nat) :
    SameCourse (answered (s.widths.answer a) rest s) (answered (s'.widths.answer a) rest s') :=
  { h with
    result := by rw [h.widths]; exact congrArg (· ||| _) h.result
    answers := rfl
    port := rfl }

theorem SameCourse.put (h : SameCourse s s') (m : Bool) (fu : Option FuBytes) (off n : Nat) :
    SameCourse (present m fu off n s) (present m fu off n s') :=
  { h with port := by rw [presented_present, presented_present, h.args] }

/-- Going on in another phase, with other working registers. -/
theorem SameCourse.goto (h : SameCourse s s') {p p' : Phase} {w w' : Working} (hp : p' = p)
    (hlive : LiveAlike p w w') :
    SameCourse { s with ph := p, work := w } { s' with ph := p', work := w' } :=
  { h with ph := hp, live := hlive }

theorem FragAlike.fuBytes {w w' : Working} (h : FragAlike w w') : w'.fuBytes = w.fuBytes := by
  rw [Working.fuBytes, h.fu0, h.fu1, h.fu2]
  rfl

/-- Each move of the one block is a move of the other. -/
theorem SameCourse.follows (h : SameCourse s s') (hm : BlockMove s t) : Follows s s' t := by
  obtain ⟨hlen, hmax, hfu⟩ := h.fields
  have hlive := h.live
  cases hm with
  | idle hp => exact .silent (.idle (h.ph.trans hp)) h rfl rfl
  | stall hp hv ha =>
    exact .silent (.stall (by rw [h.ph]; exact hp) (h.valid.trans hv) (h.answers.trans ha)) h
      rfl rfl
  | @first p hp hscan =>
    rw [← h.buf, ← hlen] at hscan
    refine .silent (.first (h.ph.trans hp) hscan) (h.goto (by rw [hlen]) ?_) rfl rfl
    split_ifs
    · exact rfl
    · trivial
  | skip hp hstart =>
    rw [hp] at hlive
    have hr : s'.work.r = s.work.r := hlive
    rw [← h.buf, ← hlen, ← hr] at hstart
    exact .silent (.skip (h.ph.trans hp) hstart) (h.goto (p := .next) rfl rfl) rfl rfl
  | @next p hp hscan =>
    rw [hp] at hlive
    have hcur : s'.work.cur = s.work.cur := hlive
    rw [← h.buf, ← hlen, ← hcur] at hscan
    refine .silent (.next (h.ph.trans hp) hscan) (h.goto (by rw [hcur, hmax]) ?_) rfl rfl
    split_ifs <;> exact ⟨hcur, rfl, congrArg (p - ·) hcur, by rw [hlen]⟩
  | singlePut hp hv =>
    rw [hp] at hlive
    have hput := BlockMove.singlePut (h.ph.trans hp) (h.valid.trans hv)
    rw [hlive.cur, hlive.ulen, hlive.mark] at hput
    exact .silent hput (h.put _ _ _ _) rfl rfl
  | @singleTake a rest hp hv ha =>
    rw [hp] at hlive
    have htake := BlockMove.singleTake (h.ph.trans hp) (h.valid.trans hv) (h.answers.trans ha)
    exact .taken h hv htake ((h.answered a rest).goto (p := .adv) rfl hlive.r1) rfl rfl
  | shortUnit hp hshort =>
    rw [hp] at hlive
    rw [← hlive.ulen] at hshort
    have hraised : SameCourse (raiseDec s) (raiseDec s') :=
      { h with result := congrArg (· ||| decCode) h.result }
    exact .silent (.shortUnit (h.ph.trans hp) hshort) (hraised.goto (p := .adv) rfl hlive.r1)
      rfl rfl
  | @fragInit b0 b1 hp hlong h0 h1 =>
    rw [hp] at hlive
    rw [← hlive.ulen] at hlong
    rw [← h.buf, ← hlen, ← hlive.cur] at h0 h1
    refine .silent (.fragInit (h.ph.trans hp) hlong h0 h1) (h.goto (p := .fragLoop) rfl ?_) rfl rfl
    refine ⟨hlive.r1, hlive.mark, congrArg (· - 3) hmax, ?_, ?_, rfl, congrArg (· + 2) hlive.cur,
      congrArg (· - 2) hlive.ulen⟩
    · change (firstFuBytes s'.fuType b0 b1).b0 = (firstFuBytes s.fuType b0 b1).b0
      rw [hfu]
    · change (firstFuBytes s'.fuType b0 b1).b1 = (firstFuBytes s.fuType b0 b1).b1
      rw [hfu]
  | fragPut hp hv hmore =>
    rw [hp] at hlive
    rw [← hlive.flen, ← hlive.rem] at hmore
    have hput := BlockMove.fragPut (h.ph.trans hp) (h.valid.trans hv) hmore
    rw [hlive.fuBytes, hlive.off, hlive.flen] at hput
    exact .silent hput (h.put _ _ _ _) rfl rfl
  | @fragTake a rest hp hv ha =>
    rw [hp] at hlive
    have htake := BlockMove.fragTake (h.ph.trans hp) (h.valid.trans hv) (h.answers.trans ha)
    refine .taken h hv htake ((h.answered a rest).goto h.ph ?_) rfl rfl
    rw [answered_ph, hp]
    exact { hlive with
      off := congrArg₂ (· + ·) hlive.off hlive.flen
      rem := congrArg₂ (· - ·) hlive.rem hlive.flen
      fu2 := congrArg fu2ClearStart hlive.fu2 }
  | fragLeave hp hv hlast =>
    rw [hp] at hlive
    rw [← hlive.flen, ← hlive.rem] at hlast
    exact .silent (.fragLeave (h.ph.trans hp) (h.valid.trans hv) hlast)
      (h.goto (p := .fragLast) rfl hlive) rfl rfl
  | lastPut hp hv =>
    rw [hp] at hlive
    have hput := BlockMove.lastPut (h.ph.trans hp) (h.valid.trans hv)
    have hend : FragAlike (setEnd s).work (setEnd s').work :=
      { hlive with fu2 := congrArg fu2SetEnd hlive.fu2 }
    have hset : SameCourse (setEnd s) (setEnd s') := h.goto h.ph (by rw [hp]; exact hend)
    rw [presentLast, hend.fuBytes, hlive.mark, hlive.off, hlive.rem] at hput
    exact .silent hput (hset.put _ _ _ _) rfl rfl
  | @lastTake a rest hp hv ha =>
    rw [hp] at hlive
    have htake := BlockMove.lastTake (h.ph.trans hp) (h.valid.trans hv) (h.answers.trans ha)
    exact .taken h hv htake ((h.answered a rest).goto (p := .adv) rfl hlive.r1) rfl rfl
  | adv hp =>
    rw [hp] at hlive
    have hr1 : s'.work.r1 = s.work.r1 := hlive
    refine .silent (.adv (h.ph.trans hp)) (h.goto (by rw [hr1, hlen]) ?_) rfl rfl
    split_ifs
    · exact hr1
    · trivial
  | finish hp =>
    exact .silent (.finish (h.ph.trans hp)) { h with status := rfl, ph := rfl, live := trivial }
      rfl rfl

/-- Step by step the two blocks, left alone by their hosts, go through the same states and send the
same. -/
theorem SameCourse.core_run (k : Nat) {s s' u : State} (h : SameCourse s s') (hh : s.host = [])
    (hh' : s'.host = []) (hrun : core.run k s = .next u) :
    ∃ u' sent, core.run k s' = .next u' ∧ SameCourse u u' ∧
      u.sink.received = s.sink.received ++ sent ∧ u'.sink.received = s'.sink.received ++ sent := by
  induction k generalizing s s' with
  | zero =>
    cases hrun
    exact ⟨s', [], rfl, h, (List.append_nil _).symm, (List.append_nil _).symm⟩
  | succ k ih =>
    obtain ⟨t, hstep, hrest⟩ := core_run_succ_next hrun
    rw [step_of_host_nil hh] at hstep
    have hmove := blockMove_of_blockStep hstep
    obtain ⟨t', sent, hmove', ht, hsent, hsent'⟩ := h.follows hmove
    obtain ⟨u', more, hrun', hu, hmore, hmore'⟩ := ih ht (hmove.frame.host.trans hh)
      (hmove'.frame.host.trans hh') hrest
    have hstep' : step s' = .next t' := by rw [step_of_host_nil hh', hmove'.blockStep_eq]
    exact ⟨u', sent ++ more, (core_run_succ hstep').trans hrun', hu,
      by rw [hmore, hsent, List.append_assoc], by rw [hmore', hsent', List.append_assoc]⟩

end Course

/-- A PKT taken by two idle blocks with the same buffer, widths, FU_TYPE and coming answers starts
the same course (R107, R108). -/
theorem sameCourse_checkMaxsz {s s' : State} (hv : s.pk.valid = false) (hv' : s'.pk.valid = false)
    (hbuf : s.buf = s'.buf) (hw : s.widths = s'.widths) (hfu : s.fuType = s'.fuType)
    (ha : s.sink.answers = s'.sink.answers) (len maxsz : Nat) (ts : Stamp) (ctx : Nat) :
    SameCourse (checkMaxsz (accept (loadP s.widths 5 len maxsz ts ctx) s))
      (checkMaxsz (accept (loadP s'.widths 5 len maxsz ts ctx) s')) := by
  rw [checkMaxsz_accept, checkMaxsz_accept, hw]
  refine ⟨rfl, rfl, rfl, hbuf.symm, rfl, ?_, ha.symm,
    (presented_of_not_valid hv').trans (presented_of_not_valid hv).symm, ?_⟩
  · simp only [State.pktArgs, hfu]
    rfl
  · change LiveAlike
      (if (loadP s'.widths 5 len maxsz ts ctx s.opr).maxsz ≤ 3 then .finish else .first)
      s.work s'.work
    split_ifs <;> trivial

/-- Settles O44: a command reads only what it loads and the buffer, and a PKT's course never reads a
register it has not written. -/
theorem operationsAreStatelessAcrossCalls : Obligations.OperationsAreStatelessAcrossCalls := by
  constructor
  · intro i s s' t hi hb hb' hbuf hw h
    obtain ⟨t', heff, hst, hres, hph, hregs⟩ := (commandEffect_of_exec hi hb h).alike hbuf hw
    refine ⟨t', heff.exec_eq hb', hst, hres, hph, fun r hr => ?_⟩
    rw [readReg_of_mem_ownRegs hb' (heff.exec_eq hb') hr, readReg_of_mem_ownRegs hb h hr,
      hregs r hr]
  · intro len maxsz ts ctx k s s' t u hb hb' hv hv' hh hh' hbuf hw hfu ha h hrun
    rw [exec_pkt_idle hb] at h
    cases h
    have hcourse := sameCourse_checkMaxsz hv hv' hbuf hw hfu ha len maxsz ts ctx
    have hexec' := exec_pkt_idle hb' len maxsz ts ctx
    have frame := (CommandEffect.pkt (s := s) len maxsz ts ctx).frame
    have frame' := (CommandEffect.pkt (s := s') len maxsz ts ctx).frame
    obtain ⟨-, -, -, -, -, hhost, hsink⟩ := frame
    obtain ⟨-, -, -, -, -, hhost', hsink'⟩ := frame'
    obtain ⟨u', sent, hrun', hu, hsent, hsent'⟩ :=
      hcourse.core_run k (hhost.trans hh) (hhost'.trans hh') hrun
    rw [hsink] at hsent
    rw [hsink'] at hsent'
    exact ⟨_, u', sent, hexec', hrun', hu.status, hu.result, hu.ph, hu.port, hsent, hsent'⟩

end Sys2Proof.Machine
